-- ==== Sys2Proof/Word.lean ====
section
/-! DEFINITION. The machine's word types (spec R7, R8, R71): nothing here computes an instruction. -/

namespace Sys2Proof

/-- A u8: a memory byte, a general register, a timer (R8, R21, R26). -/
abbrev Byte := BitVec 8

/-- A u16: an instruction word, `I`, `PC`, a stack entry (R23, R24, R25, R70). -/
abbrev Word := BitVec 16

/-- A 4-bit field that names a register V0 to VF (`x`, `y` of R71), a key, or a sprite height. -/
abbrev Nibble := BitVec 4

/-- The name of a general register, 0 to 15 (R21). -/
abbrev RegName := Nibble

/-- The 12-bit address immediate `NNN` (R71). -/
abbrev Imm12 := BitVec 12

/-- One row of the frame buffer: 64 one-bit pixels (R28). -/
abbrev Row := Vector Bool 64

/-- The frame buffer: 32 rows of 64 pixels, `FB[r][c]` at row `r` and column `c` (R28, R160). -/
abbrev Frame := Vector Row 32

end Sys2Proof
end

