-- ==== Sys2Proof/Syntax.lean ====
section
/-! DEFINITION. The instructions: one constructor per row of spec/opcode_table.json, in the table's order (R74), each
with the fields its format uses (R73). -/

namespace Sys2Proof

/-- The 35 instructions of the opcode map (R74). `x`, `y` name registers, `nn` is the byte immediate, `nnn` the
address immediate and `n` the sprite height (R71). -/
inductive Instr where
  /-- 00E0, `CLS` (R161). -/
  | cls
  /-- 00EE, `RET` (R105). -/
  | ret
  /-- 0NNN, `SYS NNN` (R104). -/
  | sys (nnn : Imm12)
  /-- 1NNN, `JP NNN` (R106). -/
  | jp (nnn : Imm12)
  /-- 2NNN, `CALL NNN` (R107). -/
  | call (nnn : Imm12)
  /-- 3XNN, `SE Vx, NN` (R108). -/
  | seImm (x : RegName) (nn : Byte)
  /-- 4XNN, `SNE Vx, NN` (R109). -/
  | sneImm (x : RegName) (nn : Byte)
  /-- 5XY0, `SE Vx, Vy` (R110). -/
  | seReg (x y : RegName)
  /-- 6XNN, `LD Vx, NN` (R131). -/
  | ldImm (x : RegName) (nn : Byte)
  /-- 7XNN, `ADD Vx, NN` (R132). -/
  | addImm (x : RegName) (nn : Byte)
  /-- 8XY0, `LD Vx, Vy` (R133). -/
  | ldReg (x y : RegName)
  /-- 8XY1, `OR Vx, Vy` (R134). -/
  | orReg (x y : RegName)
  /-- 8XY2, `AND Vx, Vy` (R135). -/
  | andReg (x y : RegName)
  /-- 8XY3, `XOR Vx, Vy` (R136). -/
  | xorReg (x y : RegName)
  /-- 8XY4, `ADD Vx, Vy` (R137). -/
  | addReg (x y : RegName)
  /-- 8XY5, `SUB Vx, Vy` (R138). -/
  | sub (x y : RegName)
  /-- 8XY6, `SHR Vx, Vy` (R139). -/
  | shr (x y : RegName)
  /-- 8XY7, `SUBN Vx, Vy` (R140). -/
  | subn (x y : RegName)
  /-- 8XYE, `SHL Vx, Vy` (R141). -/
  | shl (x y : RegName)
  /-- 9XY0, `SNE Vx, Vy` (R111). -/
  | sneReg (x y : RegName)
  /-- ANNN, `LD I, NNN` (R200). -/
  | ldI (nnn : Imm12)
  /-- BNNN, `JP V0, NNN` (R112); in the alternate dialect its register is the top nibble of `nnn`. -/
  | jpV0 (nnn : Imm12)
  /-- CXNN, `RND Vx, NN` (R142). -/
  | rnd (x : RegName) (nn : Byte)
  /-- DXYN, `DRW Vx, Vy, n` (R162). -/
  | drw (x y : RegName) (n : Nibble)
  /-- EX9E, `SKP Vx` (R180). -/
  | skp (x : RegName)
  /-- EXA1, `SKNP Vx` (R181). -/
  | sknp (x : RegName)
  /-- FX07, `LD Vx, DT` (R184). -/
  | ldVxDT (x : RegName)
  /-- FX0A, `LD Vx, K` (R182). -/
  | ldVxK (x : RegName)
  /-- FX15, `LD DT, Vx` (R185). -/
  | ldDT (x : RegName)
  /-- FX18, `LD ST, Vx` (R186). -/
  | ldST (x : RegName)
  /-- FX1E, `ADD I, Vx` (R201). -/
  | addI (x : RegName)
  /-- FX29, `LD F, Vx` (R202). -/
  | ldF (x : RegName)
  /-- FX33, `LD B, Vx` (R203). -/
  | ldB (x : RegName)
  /-- FX55, `LD [I], Vx` (R204). -/
  | storeRegs (x : RegName)
  /-- FX65, `LD Vx, [I]` (R205). -/
  | loadRegs (x : RegName)
  deriving DecidableEq, Repr

end Sys2Proof
end

