-- ==== Sys2Proof/Decode.lean ====
section
/-! DEFINITION. Instruction words: the fields (R71), the decoder (R74 to R76, R79), the encoder, and the opcode map's
masks and matches as R74 lists them. -/

namespace Sys2Proof

/-- nibble0, `w[15:12]`: the major opcode (R71). -/
def Word.op (w : Word) : Nibble := w.extractLsb' 12 4

/-- `x`, nibble1, `w[11:8]` (R71). -/
def Word.x (w : Word) : Nibble := w.extractLsb' 8 4

/-- `y`, nibble2, `w[7:4]` (R71). -/
def Word.y (w : Word) : Nibble := w.extractLsb' 4 4

/-- `n`, nibble3, `w[3:0]` (R71). -/
def Word.n (w : Word) : Nibble := w.extractLsb' 0 4

/-- `NN`, `w[7:0]` (R71). -/
def Word.nn (w : Word) : Byte := w.extractLsb' 0 8

/-- `NNN`, `w[11:0]` (R71). -/
def Word.nnn (w : Word) : Imm12 := w.extractLsb' 0 12

/-- What a word decodes to (R79): one of the 35 instructions with its fields, or `Unknown(w)`. -/
inductive Decoded where
  /-- The word matches a row of the opcode map. -/
  | instr (i : Instr)
  /-- The word matches no row (R76). -/
  | unknown (w : Word)
  deriving DecidableEq, Repr

/-- Major opcode 8: the minor opcode is nibble3 (R74). -/
def decodeArith (w : Word) : Decoded :=
  match Word.n w with
  | 0x0#4 => .instr (.ldReg (Word.x w) (Word.y w))
  | 0x1#4 => .instr (.orReg (Word.x w) (Word.y w))
  | 0x2#4 => .instr (.andReg (Word.x w) (Word.y w))
  | 0x3#4 => .instr (.xorReg (Word.x w) (Word.y w))
  | 0x4#4 => .instr (.addReg (Word.x w) (Word.y w))
  | 0x5#4 => .instr (.sub (Word.x w) (Word.y w))
  | 0x6#4 => .instr (.shr (Word.x w) (Word.y w))
  | 0x7#4 => .instr (.subn (Word.x w) (Word.y w))
  | 0xE#4 => .instr (.shl (Word.x w) (Word.y w))
  | _ => .unknown w

/-- Major opcode E: the minor opcode is the low byte (R74). -/
def decodeKeys (w : Word) : Decoded :=
  match Word.nn w with
  | 0x9E#8 => .instr (.skp (Word.x w))
  | 0xA1#8 => .instr (.sknp (Word.x w))
  | _ => .unknown w

/-- Major opcode F: the minor opcode is the low byte (R74). -/
def decodeMisc (w : Word) : Decoded :=
  match Word.nn w with
  | 0x07#8 => .instr (.ldVxDT (Word.x w))
  | 0x0A#8 => .instr (.ldVxK (Word.x w))
  | 0x15#8 => .instr (.ldDT (Word.x w))
  | 0x18#8 => .instr (.ldST (Word.x w))
  | 0x1E#8 => .instr (.addI (Word.x w))
  | 0x29#8 => .instr (.ldF (Word.x w))
  | 0x33#8 => .instr (.ldB (Word.x w))
  | 0x55#8 => .instr (.storeRegs (Word.x w))
  | 0x65#8 => .instr (.loadRegs (Word.x w))
  | _ => .unknown w

/-- The decoder (R74, R75, R76, R79): total, one word in, every fixed nibble of a row must match. -/
def decode (w : Word) : Decoded :=
  match Word.op w with
  | 0x0#4 => if w = 0x00E0#16 then .instr .cls else if w = 0x00EE#16 then .instr .ret else .instr (.sys (Word.nnn w))
  | 0x1#4 => .instr (.jp (Word.nnn w))
  | 0x2#4 => .instr (.call (Word.nnn w))
  | 0x3#4 => .instr (.seImm (Word.x w) (Word.nn w))
  | 0x4#4 => .instr (.sneImm (Word.x w) (Word.nn w))
  | 0x5#4 => if Word.n w = 0#4 then .instr (.seReg (Word.x w) (Word.y w)) else .unknown w
  | 0x6#4 => .instr (.ldImm (Word.x w) (Word.nn w))
  | 0x7#4 => .instr (.addImm (Word.x w) (Word.nn w))
  | 0x8#4 => decodeArith w
  | 0x9#4 => if Word.n w = 0#4 then .instr (.sneReg (Word.x w) (Word.y w)) else .unknown w
  | 0xA#4 => .instr (.ldI (Word.nnn w))
  | 0xB#4 => .instr (.jpV0 (Word.nnn w))
  | 0xC#4 => .instr (.rnd (Word.x w) (Word.nn w))
  | 0xD#4 => .instr (.drw (Word.x w) (Word.y w) (Word.n w))
  | 0xE#4 => decodeKeys w
  | _ => decodeMisc w

/-- What a list of bytes decodes to, with the bytes that follow the instruction. -/
inductive BytesDecoded where
  /-- The first two bytes are an instruction. -/
  | instr (i : Instr) (rest : List Byte)
  /-- The first two bytes are an unknown opcode (R76). -/
  | unknown (w : Word) (rest : List Byte)
  /-- Fewer than two bytes: no instruction word (R70: every instruction is one 16-bit word). -/
  | truncated
  deriving DecidableEq, Repr

/-- `a : b` of R9: the byte at the lower address is the high byte (R52). -/
def Word.ofBytes (hi lo : Byte) : Word := hi ++ lo

/-- The byte of a word at the lower address (R52). -/
def Word.hiByte (w : Word) : Byte := w.extractLsb' 8 8

/-- The byte of a word at the higher address (R52). -/
def Word.loByte (w : Word) : Byte := w.extractLsb' 0 8

/-- Decodes the instruction that starts a list of bytes, first byte first, big-endian (R52, R70). -/
def decodeBytes : List Byte → BytesDecoded
  | hi :: lo :: rest =>
    match decode (Word.ofBytes hi lo) with
    | .instr i => .instr i rest
    | .unknown w => .unknown w rest
  | _ => .truncated

/-- The one word of a row of the opcode table that has `nbits` bits, from its bits `w` (bit 0 the least significant):
the instruction's bits at and above `nbits` are 0. -/
def tableWord (nbits w : Nat) : Word := BitVec.ofNat 16 (w % 2 ^ nbits)

/-- The instruction the decoder reads from the bytes of a table row's word, laid out as memory holds them. -/
def decodeTableWord (nbits w : Nat) : Option Instr :=
  match decodeBytes [Word.hiByte (tableWord nbits w), Word.loByte (tableWord nbits w)] with
  | .instr i _ => some i
  | .unknown _ _ => none
  | .truncated => none

/-! ### The encoder -/

/-- A word of format A: major opcode and `NNN` (R73). -/
def Word.ofA (op : Nibble) (nnn : Imm12) : Word := op ++ nnn

/-- `NNN` from the nibble `x` and the byte `NN` it is made of (R71: the fields overlap). -/
def Imm12.ofXNN (x : RegName) (nn : Byte) : Imm12 := x ++ nn

/-- `NN` from the nibbles `y` and `n` it is made of (R71). -/
def Byte.ofYN (y : RegName) (n : Nibble) : Byte := y ++ n

/-- A word of format XNN, or of format X with its fixed low byte (R73). -/
def Word.ofXNN (op : Nibble) (x : RegName) (nn : Byte) : Word := Word.ofA op (Imm12.ofXNN x nn)

/-- A word of format XYN, or of format XY with its fixed nibble3 (R73). -/
def Word.ofXYN (op : Nibble) (x y : RegName) (n : Nibble) : Word := Word.ofXNN op x (Byte.ofYN y n)

/-- The word of an instruction, by the patterns of R74. -/
def encode : Instr → Word
  | .cls => 0x00E0#16
  | .ret => 0x00EE#16
  | .sys nnn => Word.ofA 0x0 nnn
  | .jp nnn => Word.ofA 0x1 nnn
  | .call nnn => Word.ofA 0x2 nnn
  | .seImm x nn => Word.ofXNN 0x3 x nn
  | .sneImm x nn => Word.ofXNN 0x4 x nn
  | .seReg x y => Word.ofXYN 0x5 x y 0x0
  | .ldImm x nn => Word.ofXNN 0x6 x nn
  | .addImm x nn => Word.ofXNN 0x7 x nn
  | .ldReg x y => Word.ofXYN 0x8 x y 0x0
  | .orReg x y => Word.ofXYN 0x8 x y 0x1
  | .andReg x y => Word.ofXYN 0x8 x y 0x2
  | .xorReg x y => Word.ofXYN 0x8 x y 0x3
  | .addReg x y => Word.ofXYN 0x8 x y 0x4
  | .sub x y => Word.ofXYN 0x8 x y 0x5
  | .shr x y => Word.ofXYN 0x8 x y 0x6
  | .subn x y => Word.ofXYN 0x8 x y 0x7
  | .shl x y => Word.ofXYN 0x8 x y 0xE
  | .sneReg x y => Word.ofXYN 0x9 x y 0x0
  | .ldI nnn => Word.ofA 0xA nnn
  | .jpV0 nnn => Word.ofA 0xB nnn
  | .rnd x nn => Word.ofXNN 0xC x nn
  | .drw x y n => Word.ofXYN 0xD x y n
  | .skp x => Word.ofXNN 0xE x 0x9E
  | .sknp x => Word.ofXNN 0xE x 0xA1
  | .ldVxDT x => Word.ofXNN 0xF x 0x07
  | .ldVxK x => Word.ofXNN 0xF x 0x0A
  | .ldDT x => Word.ofXNN 0xF x 0x15
  | .ldST x => Word.ofXNN 0xF x 0x18
  | .addI x => Word.ofXNN 0xF x 0x1E
  | .ldF x => Word.ofXNN 0xF x 0x29
  | .ldB x => Word.ofXNN 0xF x 0x33
  | .storeRegs x => Word.ofXNN 0xF x 0x55
  | .loadRegs x => Word.ofXNN 0xF x 0x65

/-! ### The opcode map as R74 lists it -/

/-- The row of R74's table that an instruction belongs to: its mask and its match. -/
def Instr.tableRow : Instr → Word × Word
  | .cls => (0xFFFF, 0x00E0)
  | .ret => (0xFFFF, 0x00EE)
  | .sys _ => (0xF000, 0x0000)
  | .jp _ => (0xF000, 0x1000)
  | .call _ => (0xF000, 0x2000)
  | .seImm _ _ => (0xF000, 0x3000)
  | .sneImm _ _ => (0xF000, 0x4000)
  | .seReg _ _ => (0xF00F, 0x5000)
  | .ldImm _ _ => (0xF000, 0x6000)
  | .addImm _ _ => (0xF000, 0x7000)
  | .ldReg _ _ => (0xF00F, 0x8000)
  | .orReg _ _ => (0xF00F, 0x8001)
  | .andReg _ _ => (0xF00F, 0x8002)
  | .xorReg _ _ => (0xF00F, 0x8003)
  | .addReg _ _ => (0xF00F, 0x8004)
  | .sub _ _ => (0xF00F, 0x8005)
  | .shr _ _ => (0xF00F, 0x8006)
  | .subn _ _ => (0xF00F, 0x8007)
  | .shl _ _ => (0xF00F, 0x800E)
  | .sneReg _ _ => (0xF00F, 0x9000)
  | .ldI _ => (0xF000, 0xA000)
  | .jpV0 _ => (0xF000, 0xB000)
  | .rnd _ _ => (0xF000, 0xC000)
  | .drw _ _ _ => (0xF000, 0xD000)
  | .skp _ => (0xF0FF, 0xE09E)
  | .sknp _ => (0xF0FF, 0xE0A1)
  | .ldVxDT _ => (0xF0FF, 0xF007)
  | .ldVxK _ => (0xF0FF, 0xF00A)
  | .ldDT _ => (0xF0FF, 0xF015)
  | .ldST _ => (0xF0FF, 0xF018)
  | .addI _ => (0xF0FF, 0xF01E)
  | .ldF _ => (0xF0FF, 0xF029)
  | .ldB _ => (0xF0FF, 0xF033)
  | .storeRegs _ => (0xF0FF, 0xF055)
  | .loadRegs _ => (0xF0FF, 0xF065)

/-- R74: "A word decodes to the row whose fixed bits it matches (`w & mask = match`)". -/
def Word.matchesRow (w : Word) (row : Word × Word) : Bool := w &&& row.1 == row.2

/-- R76, the words that match no row of the opcode map, in that rule's own list. -/
def Word.isUnknown (w : Word) : Bool :=
  (Word.op w == 0x5 && Word.n w != 0)
  || (Word.op w == 0x8 && [0x8, 0x9, 0xA, 0xB, 0xC, 0xD, 0xF].contains (Word.n w))
  || (Word.op w == 0x9 && Word.n w != 0)
  || (Word.op w == 0xE && !([0x9E, 0xA1].contains (Word.nn w)))
  || (Word.op w == 0xF && !([0x07, 0x0A, 0x15, 0x18, 0x1E, 0x29, 0x33, 0x55, 0x65].contains (Word.nn w)))

end Sys2Proof
end

