-- ==== Sys2Proof/Config.lean ====
section
/-! DEFINITION. What the spec fixes for this hardware (R7), and the FREE VALUES: constants without a body, of which no
proof can know anything but their type. -/

namespace Sys2Proof

/-- `MEM_SIZE` (R7): addresses 0 to 4095 exist. -/
abbrev Config.memSize : Nat := 4096

/-- `FONT_SIZE` (R7): the font fills addresses 0 to 79. -/
abbrev Config.fontSize : Nat := 80

/-- `GLYPH_STRIDE` (R7): a glyph is five bytes. -/
abbrev Config.glyphStride : Nat := 5

/-- `ROM_BASE` (R7): where the ROM is loaded and where `PC` starts. -/
abbrev Config.romBase : Nat := 512

/-- `ROM_MAX` (R7): the most bytes a ROM may have. -/
abbrev Config.romMax : Nat := 3584

/-- `STACK_DEPTH` (R7). -/
abbrev Config.stackDepth : Nat := 16

/-- `WIDTH` (R7, decision D2). -/
abbrev Config.width : Nat := 64

/-- `HEIGHT` (R7, decision D2). -/
abbrev Config.height : Nat := 32

/-- FREE VALUE. The byte CXNN draws (R142, D23, U1): "a free 8-bit input of each CXNN step", under no law.
Applied to the state's counter `draws`. Log 4. -/
opaque Config.rand8 : Nat → Byte

/-- FREE VALUE. Whether the store to an address took place before a later store of the same instruction raised
`Fatal(MemOutOfBounds)` (R232: "which of the instruction's earlier effects took place is not specified").
Applied to the counter `draws` and the address. Log 7. -/
opaque Config.storeTook : Nat → Nat → Bool

/-- FREE VALUE. Whether the load of a register took place before a later load of the same FX65 raised
`Fatal(MemOutOfBounds)` (R232). Applied to the counter `draws` and the register's number. Log 7. -/
opaque Config.loadTook : Nat → Nat → Bool

/-- FREE VALUE. The frame buffer after a DXYN that raised `Fatal(MemOutOfBounds)` (R162, R232; vector D7 "FB and VF
not specified"). Applied to the counter `draws`. Log 7. -/
opaque Config.haltedFrame : Nat → Frame

/-- FREE VALUE. VF after a DXYN that raised `Fatal(MemOutOfBounds)` (as `Config.haltedFrame`). Log 7. -/
opaque Config.haltedFlag : Nat → Byte

end Sys2Proof
end

