-- ==== Sys2Proof/Machine/Parameters.lean ====
section
/-! DEFINITION. The construction arguments that State.reset is built with (R7: `FONT` and `QUIRK` are model arguments). -/

namespace Sys2Proof.Machine

/-- Glyphs 0 to 7 of the conventional font (R36). -/
def conventionalFontLow : List Byte :=
  [0xF0, 0x90, 0x90, 0x90, 0xF0] ++ [0x20, 0x60, 0x20, 0x20, 0x70] ++
  [0xF0, 0x10, 0xF0, 0x80, 0xF0] ++ [0xF0, 0x10, 0xF0, 0x10, 0xF0] ++
  [0x90, 0x90, 0xF0, 0x10, 0x10] ++ [0xF0, 0x80, 0xF0, 0x10, 0xF0] ++
  [0xF0, 0x80, 0xF0, 0x90, 0xF0] ++ [0xF0, 0x10, 0x20, 0x40, 0x40]

/-- Glyphs 8 to F of the conventional font (R36). -/
def conventionalFontHigh : List Byte :=
  [0xF0, 0x90, 0xF0, 0x90, 0xF0] ++ [0xF0, 0x90, 0xF0, 0x10, 0xF0] ++
  [0xF0, 0x90, 0xF0, 0x90, 0x90] ++ [0xE0, 0x90, 0xE0, 0x90, 0xE0] ++
  [0xF0, 0x80, 0x80, 0x80, 0xF0] ++ [0xE0, 0x90, 0x90, 0x90, 0xE0] ++
  [0xF0, 0x80, 0xF0, 0x80, 0xF0] ++ [0xF0, 0x80, 0xF0, 0x80, 0x80]

/-- The conventional CHIP-8 font of R36's table, the value the spec's vectors assume. PRESUMED, unsafe for claims about
State.reset's font bytes alone: the source gives no bytes, the font is the construction argument `FONT` (D3). Log 2. -/
def conventionalFont : Vector Byte 80 :=
  ⟨(conventionalFontLow ++ conventionalFontHigh).toArray, by decide⟩

/-- The dialect State.reset is built with, `false` = legacy. DESIGN CHOICE, unsafe for claims about State.reset's
dialect alone: `QUIRK` is a construction argument (R29, D1). Log 3. -/
def resetQuirk : Bool := false

end Sys2Proof.Machine
end

