-- ==== Sys2Proof/Machine/State.lean ====
section
/-! DEFINITION. The state of the core (R20 to R32), why a step may stop, and the state after construction. -/

namespace Sys2Proof.Machine

/-- The fatal outcomes, with what each records (R231, R232, R233). -/
inductive Fatal where
  /-- A step began with `PC > 4094`; records the PC (R231). -/
  | pcOutOfBounds (pc : Word)
  /-- An instruction addressed a data byte at 4096 or above; records the first such address and the instruction word
  (R232). -/
  | memOutOfBounds (a : Nat) (w : Word)
  /-- EX9E or EXA1 with a register above 15; records the value and the instruction word (R233). -/
  | keyIndexOutOfRange (k : Byte) (w : Word)
  deriving DecidableEq, Repr

/-- The kinds of a recoverable error (R230). -/
inductive RecoverableKind where
  /-- CALL with 16 entries on the stack (R234). -/
  | stackOverflow
  /-- RET with an empty stack (R235). -/
  | stackUnderflow
  deriving DecidableEq, Repr

/-- The outcome a step returns to the host (R230). -/
inductive StepOutcome where
  /-- Normal. -/
  | ok
  /-- Soft failure: an unknown opcode (R236). -/
  | unknown (w : Word)
  /-- Recoverable error, with the instruction word (R234, R235). -/
  | recoverable (kind : RecoverableKind) (w : Word)
  /-- Fatal: the core is halted (R231 to R233). -/
  | fatal (f : Fatal)
  deriving DecidableEq, Repr

/-- An operation of the host that changes the core (R242). -/
inductive HostOp where
  /-- `step(rand8)`: execute one instruction. -/
  | step
  /-- `set_key(k, pressed)`, `k` in 0 to 15. -/
  | setKey (k : Nibble) (pressed : Bool)
  /-- `tick()`. -/
  | tick
  deriving DecidableEq, Repr

/-- Memory `M` (R50): the font it was constructed with and the bytes that differ from the construction contents of an
empty ROM, in increasing order of address. -/
structure Memory where
  /-- The construction argument `FONT`, kept for the machine's lifetime (R7, R36, D3). -/
  font : Vector Byte 80
  /-- The bytes that differ from what an unlisted address reads as. -/
  cells : List Host.Cell
  deriving DecidableEq, Repr

/-- The state (R20), and three fields of the model's own: `outcome`, `draws`, `agenda`. -/
structure State where
  /-- Memory `M` (R50). -/
  mem : Memory
  /-- The general registers V0 to VF (R21); VF is the flag register (R22). -/
  v : Vector Byte 16
  /-- The index register `I` (R23). -/
  i : Word
  /-- The program counter `PC` (R24). -/
  pc : Word
  /-- The call stack, the top at the end (R25, R10). -/
  stack : List Word
  /-- The delay timer `DT` (R26). -/
  dt : Byte
  /-- The sound timer `ST` (R26). -/
  st : Byte
  /-- The keypad `K` (R27). -/
  keys : Vector Bool 16
  /-- The frame buffer `FB` (R28). -/
  fb : Frame
  /-- The dialect `QUIRK`: `false` legacy, `true` alternate (R29). -/
  quirk : Bool
  /-- The halt mark `halted` (R30). -/
  halted : Option Fatal
  /-- MODEL'S OWN: the outcome the last step returned to the host (R230, R242); none before the first. Log 5. -/
  outcome : Option StepOutcome
  /-- MODEL'S OWN: how many free values have been drawn. DESIGN CHOICE, safe: no claim rests on it. Log 4. -/
  draws : Nat
  /-- MODEL'S OWN: what the host does next, first first; when empty, the host calls steps (R242, R243). Log 6. -/
  agenda : List HostOp
  deriving DecidableEq, Repr

/-- Why the machine stops. -/
inductive Fault where
  /-- Raised by a step of a core that a fatal outcome has halted: "the core has no step" (R100, R30). SAFE: the spec
  says so. Log 8. -/
  | halted (f : Fatal)
  deriving DecidableEq, Repr

/-- Why an instruction has no meaning. -/
inductive Refusal where
  /-- Raised by an arm of `exec` whose instruction is not modelled; no arm does. SAFE: the model stops. -/
  | notModelled (mnemonic : String)
  deriving DecidableEq, Repr

/-- What a step or a meaning answers. -/
abbrev StepResult := Host.Outcome State Fault Refusal

/-- The state construction gives for an empty ROM (R33, R34, R35, R36, R37). -/
def State.initial (font : Vector Byte 80) (quirk : Bool) : State where
  mem := { font := font, cells := [] }
  v := Vector.replicate 16 0
  i := 0
  pc := 0x200
  stack := []
  dt := 0
  st := 0
  keys := Vector.replicate 16 false
  fb := Vector.replicate 32 (Vector.replicate 64 false)
  quirk := quirk
  halted := none
  outcome := none
  draws := 0
  agenda := []

/-- The machine right after construction, the only reset (R260, R261), with an empty ROM. Logs 1, 2, 3. -/
def State.reset : State := State.initial conventionalFont resetQuirk

end Sys2Proof.Machine
end

