-- ==== Sys2Proof/Machine/Flags.lean ====
section
/-! DEFINITION. Every flag computation of the spec: VF's rules (R22, R137 to R141, R143, R162, R201). -/

namespace Sys2Proof.Machine

/-- `VF`, register 15, the flag register (R22). -/
abbrev vF : RegName := 0xF#4

/-- A flag as the byte VF takes: 1 or 0. -/
def flagByte (b : Bool) : Byte := if b then 1 else 0

/-- Carry of 8XY4: the unsigned sum exceeds 255 (R137). -/
def carryFlag (a b : Byte) : Byte := flagByte (decide (255 < a.toNat + b.toNat))

/-- NOT borrow of `a − b`: 1 when `a ≥ b` (R138; R140 with the operands swapped). -/
def noBorrowFlag (a b : Byte) : Byte := flagByte (decide (b.toNat ≤ a.toNat))

/-- The bit 8XY6 shifts out: bit 0 of the source (R139). -/
def shiftedOutRight (src : Byte) : Byte := flagByte (src.getLsbD 0)

/-- The bit 8XYE shifts out: bit 7 of the source (R141). -/
def shiftedOutLeft (src : Byte) : Byte := flagByte (src.getLsbD 7)

/-- FX1E sets VF when the exact sum is above 0x1000 (R201, C2). -/
def indexOverflows (sum : Nat) : Bool := decide (0x1000 < sum)

end Sys2Proof.Machine
end

