-- ==== Sys2Proof/Machine/Ops.lean ====
section
/-! DEFINITION. The named operations over memory, registers, stack, keypad and frame buffer, how a step ends (R12,
R230), and the fetch of an instruction's bytes (R52). -/

namespace Sys2Proof.Machine

/-! ### Memory -/

/-- What an address reads as when nothing is listed for it: the construction contents with an empty ROM, the font at 0
to 79 and zero elsewhere (R34, R36). -/
def Memory.defaultByte (m : Memory) (a : Nat) : Byte := (m.font[a]?).getD 0

/-- The byte a list of cells holds at an address, `d` where it lists none. -/
def readCells (d : Byte) (a : Nat) : List Host.Cell → Byte
  | [] => d
  | (c, x) :: rest => if a = c then x else readCells d a rest

/-- `MemRead(a, 1)` for an address below 4096 (R11, R51; the operations that access memory check the bound). -/
def Memory.read (m : Memory) (a : Nat) : Byte := readCells (m.defaultByte a) a m.cells

/-- Puts a byte into a list of cells at its place; a byte equal to the default `d` is not listed. -/
def writeCells (d : Byte) (a : Nat) (b : Byte) : List Host.Cell → List Host.Cell
  | [] => if b = d then [] else [(a, b)]
  | (c, x) :: rest =>
    if a < c then (if b = d then (c, x) :: rest else (a, b) :: (c, x) :: rest)
    else if a = c then (if b = d then rest else (a, b) :: rest)
    else (c, x) :: writeCells d a b rest

/-- `MemWrite(a, 1, b)` (R11). There is no byte at 4096 or above (R50): nothing is written there, and the operations
that store check the bound first (R51). -/
def Memory.write (m : Memory) (a : Nat) (b : Byte) : Memory :=
  if a < Config.memSize then { m with cells := writeCells (m.defaultByte a) a b m.cells } else m

/-- Stores bytes at `a`, `a + 1`, … in order (R59), but only where `keep` holds of the address. -/
def Memory.writeWhere (m : Memory) (keep : Nat → Bool) (a : Nat) : List Byte → Memory
  | [] => m
  | b :: bs => Memory.writeWhere (if keep a then m.write a b else m) keep (a + 1) bs

/-- Stores bytes at `a`, `a + 1`, … in order. -/
def Memory.writeBytes (m : Memory) (a : Nat) (bs : List Byte) : Memory := m.writeWhere (fun _ => true) a bs

/-- Addresses strictly rise from above `lo`. -/
def risingFrom (lo : Nat) : List Host.Cell → Bool
  | [] => true
  | (c, _) :: rest => decide (lo ≤ c) && risingFrom (c + 1) rest

/-- The canonical form of memory: addresses strictly rising, all below 4096, no cell equal to what its address reads as
when unlisted. -/
def Memory.wf (m : Memory) : Bool :=
  risingFrom 0 m.cells && m.cells.all (fun c => decide (c.1 < Config.memSize) && c.2 != m.defaultByte c.1)

/-- The first of the `count` addresses `base`, `base + 1`, … that is 4096 or more, in the order they are accessed
(R51, R237). -/
def firstOutOfBounds (base count : Nat) : Option Nat :=
  ((List.range count).map (base + ·)).find? (fun a => decide (Config.memSize ≤ a))

/-- The `count` bytes at `base`, `base + 1`, …. -/
def Memory.readBytes (m : Memory) (base count : Nat) : List Byte :=
  (List.range count).map (fun k => m.read (base + k))

/-! ### Registers, stack, keypad -/

/-- `V[x]` (R10, R21). -/
def State.reg (s : State) (x : RegName) : Byte := s.v[x.toNat]'x.isLt

/-- `V[x] <- b` (R10, R21). -/
def State.setReg (s : State) (x : RegName) (b : Byte) : State := { s with v := s.v.set x.toNat b x.isLt }

/-- `V[15] <- b`, written after the result (R130, D9). -/
def State.setFlag (s : State) (b : Byte) : State := s.setReg vF b

/-- `K[k]` (R10, R27). -/
def State.key (s : State) (k : Nibble) : Bool := s.keys[k.toNat]'k.isLt

/-- `PC <- a` (R10). -/
def State.setPC (s : State) (a : Word) : State := { s with pc := a }

/-- `I <- a` (R10). -/
def State.setIndex (s : State) (a : Word) : State := { s with i := a }

/-- `DT <- b` (R10). -/
def State.setDelay (s : State) (b : Byte) : State := { s with dt := b }

/-- `ST <- b` (R10). -/
def State.setSound (s : State) (b : Byte) : State := { s with st := b }

/-- The memory replaced. -/
def State.setMem (s : State) (m : Memory) : State := { s with mem := m }

/-- The frame buffer replaced. -/
def State.setFrame (s : State) (f : Frame) : State := { s with fb := f }

/-- `push(a)`: append (R10). -/
def State.push (s : State) (a : Word) : State := { s with stack := s.stack ++ [a] }

/-- The stack without its last element (R10, `pop()`). -/
def State.dropTop (s : State) : State := { s with stack := s.stack.dropLast }

/-- The general registers replaced. -/
def State.setRegs (s : State) (v : Vector Byte 16) : State := { s with v := v }

/-- One more free value drawn. Log 4. -/
def State.countDraw (s : State) : State := { s with draws := s.draws + 1 }

/-- The outcome returned to the host (R230). Log 5. -/
def State.setOutcome (s : State) (o : StepOutcome) : State := { s with outcome := some o }

/-- `halted` set to a fatal outcome (R30). -/
def State.setHalted (s : State) (f : Fatal) : State := { s with halted := some f }

/-- What the host does next. Log 6. -/
def State.setAgenda (s : State) (ops : List HostOp) : State := { s with agenda := ops }

/-! ### Frame buffer -/

/-- `FB[r][c]` (R10, R28); no pixel outside 32 × 64. -/
def framePixel (f : Frame) (r c : Nat) : Bool := ((f[r]?).bind (fun row => row[c]?)).getD false

/-- `FB[r][c] <- FB[r][c] ^ 1` (R162). -/
def flipPixel (f : Frame) (r c : Nat) : Frame :=
  match f[r]? with
  | some row => f.setIfInBounds r (row.setIfInBounds c (!framePixel f r c))
  | none => f

/-- Every pixel 0 (R161). -/
def clearFrame : Frame := Vector.replicate 32 (Vector.replicate 64 false)

/-! ### How a step ends (R12, R230) -/

/-- Outcome `Ok`. -/
def endOk (s : State) : StepResult := .next (s.setOutcome .ok)

/-- `report Unknown(w)` (R12, R236). -/
def reportUnknown (w : Word) (s : State) : StepResult := .next (s.setOutcome (.unknown w))

/-- `report Recoverable(kind, w)` (R12, R234, R235): nothing else changes. -/
def reportRecoverable (kind : RecoverableKind) (w : Word) (s : State) : StepResult :=
  .next (s.setOutcome (.recoverable kind w))

/-- `raise Fatal(kind, info)` (R12, R230): the one operation that halts the core. It saves nothing and transfers
control nowhere (R238): `halted` is set and the outcome goes to the host. -/
def raiseFatal (f : Fatal) (s : State) : StepResult :=
  .next ((s.setHalted f).setOutcome (.fatal f))

/-! ### Operations several instructions share -/

/-- A skip: `if c: PC <- PC + 2` (R102, R108). -/
def skipIf (c : Bool) (s : State) : StepResult := endOk (if c then s.setPC (s.pc + 2) else s)

/-- Stores bytes upward from `I` (R203, R204): where an address is 4096 or more, `Fatal(MemOutOfBounds)` at the first
such, and which of the stores below took place is free (R232, U5; log 7). `w` is the instruction word recorded. -/
def storeAtIndex (bytes : List Byte) (w : Word) (s : State) : StepResult :=
  match firstOutOfBounds s.i.toNat bytes.length with
  | none => endOk (s.setMem (s.mem.writeBytes s.i.toNat bytes))
  | some a =>
    raiseFatal (.memOutOfBounds a w)
      (s.setMem (s.mem.writeWhere (Config.storeTook s.draws) s.i.toNat bytes)).countDraw

/-- Registers V0, V1, …, in order, take the bytes at `base`, `base + 1`, …, where `keep` holds of the number
(R205). -/
def loadFrom (m : Memory) (keep : Nat → Bool) (base : Nat) : Nat → Vector Byte 16 → Vector Byte 16
  | 0, v => v
  | k + 1, v =>
    if keep k then (loadFrom m keep base k v).setIfInBounds k (m.read (base + k)) else loadFrom m keep base k v

/-- Loads V0 to V(count − 1) upward from `I` (R205): where an address is 4096 or more, `Fatal(MemOutOfBounds)` at the
first such, and which of the loads below took place is free (R232; log 7). -/
def loadAtIndex (count : Nat) (w : Word) (s : State) : StepResult :=
  match firstOutOfBounds s.i.toNat count with
  | none => endOk (s.setRegs (loadFrom s.mem (fun _ => true) s.i.toNat count s.v))
  | some a =>
    raiseFatal (.memOutOfBounds a w)
      (s.setRegs (loadFrom s.mem
        (fun k => decide (s.i.toNat + k < Config.memSize) && Config.loadTook s.draws k) s.i.toNat count s.v)).countDraw

/-- The key index check of EX9E and EXA1 (R180, R181, R233): an index above 15 is fatal and changes nothing else. -/
def withKeyIndex (k : Byte) (w : Word) (s : State) (run : Nibble → StepResult) : StepResult :=
  if 15 < k.toNat then raiseFatal (.keyIndexOutOfRange k w) s else run (k.setWidth 4)

/-! ### Fetch -/

/-- The instruction word at `PC`, big-endian (R52, R101). -/
def State.fetchWord (s : State) : Word := Word.ofBytes (s.mem.read s.pc.toNat) (s.mem.read (s.pc.toNat + 1))

/-- `PC > 4094`: a fetch would read outside memory (R101, D6). -/
def State.fetchOutOfBounds (s : State) : Bool := decide (4094 < s.pc.toNat)

/-- The state an instruction executes in: `PC` already advanced (R101, R102). -/
def State.postFetch (s : State) : State := s.setPC (s.pc + 2)

/-- The two bytes of a word placed at `PC`, the first at the lower address (R52), where the next fetch reads them. -/
def State.placeWord (s : State) (w : Word) : State :=
  s.setMem (s.mem.writeBytes s.pc.toNat [Word.hiByte w, Word.loByte w])

end Sys2Proof.Machine
end

