-- ==== Sys2Proof/Machine/Operands.lean ====
section
/-! DEFINITION. The operand forms (R72, R112, R139, R141, R160, R202, R203). -/

namespace Sys2Proof.Machine

/-- `zext_16(NNN)` (R72). -/
def zextAddr (nnn : Imm12) : Word := nnn.setWidth 16

/-- A register operand zero-extended to 16 bits (R72). -/
def State.regExt (s : State) (x : RegName) : Word := (s.reg x).setWidth 16

/-- `w[11:8]` of a BNNN word, the top nibble of its `NNN` (R112, C1). -/
def jumpReg (nnn : Imm12) : RegName := nnn.extractLsb' 8 4

/-- The register BNNN adds: V0 in the legacy dialect, `V[w[11:8]]` in the alternate (R112). -/
def State.jumpOffset (s : State) (nnn : Imm12) : Word :=
  if s.quirk then s.regExt (jumpReg nnn) else s.regExt 0

/-- The byte 8XY6 and 8XYE shift: `Vy` in the legacy dialect, `Vx` in the alternate (R139, R141). -/
def State.shiftSource (s : State) (x y : RegName) : Byte := if s.quirk then s.reg x else s.reg y

/-- `I + V[x]`, exact (R201). -/
def State.indexSum (s : State) (x : RegName) : Nat := s.i.toNat + (s.reg x).toNat

/-- The hundreds, tens and units of a byte (R203). -/
def bcdDigits (v : Byte) : List Byte :=
  [BitVec.ofNat 8 (v.toNat / 100), BitVec.ofNat 8 (v.toNat / 10 % 10), BitVec.ofNat 8 (v.toNat % 10)]

/-- `V[0]` to `V[x]`, in order (R204). -/
def State.regsUpTo (s : State) (x : RegName) : List Byte :=
  (List.range (x.toNat + 1)).map (fun k => s.reg (BitVec.ofNat 4 k))

/-- The lowest pressed key, scanning upward (R182). -/
def State.firstKey (s : State) : Option Nibble :=
  ((List.range 16).map (BitVec.ofNat 4)).find? s.key

/-- Column `c` of a sprite row byte: bit `7 − c` (R160, D33). -/
def spriteBit (b : Byte) (c : Nat) : Bool := b.getLsbD (7 - c)

end Sys2Proof.Machine
end

