-- ==== Sys2Proof/Machine/Alu.lean ====
section
/-! DEFINITION. Register arithmetic, logic, shift and random (41_alu.md). Operands are read first, then the result is
written, then the flag (R130). -/

namespace Sys2Proof.Machine

/-- Result to `V[x]`, then flag to VF (R130, D9): with `x = 15` VF ends holding the flag. -/
def endWithFlag (x : RegName) (result flag : Byte) (s : State) : StepResult :=
  endOk ((s.setReg x result).setFlag flag)

/-- 6XNN (R131). -/
def execLdImm (x : RegName) (nn : Byte) (s : State) : StepResult := endOk (s.setReg x nn)

/-- 7XNN (R132): no flag. -/
def execAddImm (x : RegName) (nn : Byte) (s : State) : StepResult := endOk (s.setReg x (s.reg x + nn))

/-- 8XY0 (R133). -/
def execLdReg (x y : RegName) (s : State) : StepResult := endOk (s.setReg x (s.reg y))

/-- 8XY1 (R134): VF is not reset. -/
def execOrReg (x y : RegName) (s : State) : StepResult := endOk (s.setReg x (s.reg x ||| s.reg y))

/-- 8XY2 (R135): VF is not reset. -/
def execAndReg (x y : RegName) (s : State) : StepResult := endOk (s.setReg x (s.reg x &&& s.reg y))

/-- 8XY3 (R136): VF is not reset. -/
def execXorReg (x y : RegName) (s : State) : StepResult := endOk (s.setReg x (s.reg x ^^^ s.reg y))

/-- 8XY4 (R137): VF = carry. -/
def execAddReg (x y : RegName) (s : State) : StepResult :=
  endWithFlag x (s.reg x + s.reg y) (carryFlag (s.reg x) (s.reg y)) s

/-- 8XY5 (R138): VF = no borrow. -/
def execSub (x y : RegName) (s : State) : StepResult :=
  endWithFlag x (s.reg x - s.reg y) (noBorrowFlag (s.reg x) (s.reg y)) s

/-- 8XY6 (R139): the source is `Vy` or `Vx` by dialect; VF = bit 0 of the source. -/
def execShr (x y : RegName) (s : State) : StepResult :=
  endWithFlag x (s.shiftSource x y >>> 1) (shiftedOutRight (s.shiftSource x y)) s

/-- 8XY7 (R140): VF = no borrow of `Vy − Vx`. -/
def execSubn (x y : RegName) (s : State) : StepResult :=
  endWithFlag x (s.reg y - s.reg x) (noBorrowFlag (s.reg y) (s.reg x)) s

/-- 8XYE (R141): the source is `Vy` or `Vx` by dialect; VF = bit 7 of the source. -/
def execShl (x y : RegName) (s : State) : StepResult :=
  endWithFlag x (s.shiftSource x y <<< 1) (shiftedOutLeft (s.shiftSource x y)) s

/-- CXNN (R142): the step's draw, a free value, masked. Log 4. -/
def execRnd (x : RegName) (nn : Byte) (s : State) : StepResult :=
  endOk (s.setReg x (Config.rand8 s.draws &&& nn)).countDraw

end Sys2Proof.Machine
end

