-- ==== Sys2Proof/Machine/ControlFlow.lean ====
section
/-! DEFINITION. SYS, RET, JP, CALL, the register skips, the indexed jump, unknown opcodes (40_control_flow.md). In
every meaning `PC` is the post-fetch PC (R102). -/

namespace Sys2Proof.Machine

/-- 0NNN (R104): no effect. -/
def execSys (_nnn : Imm12) (s : State) : StepResult := endOk s

/-- 00EE (R105): pops into `PC`; on an empty stack `Recoverable(StackUnderflow)`. -/
def execRet (s : State) : StepResult :=
  match s.stack.getLast? with
  | none => reportRecoverable .stackUnderflow (encode .ret) s
  | some a => endOk (s.dropTop.setPC a)

/-- 1NNN (R106). -/
def execJp (nnn : Imm12) (s : State) : StepResult := endOk (s.setPC (zextAddr nnn))

/-- 2NNN (R107): pushes the post-fetch PC and jumps; with 16 entries `Recoverable(StackOverflow)`. -/
def execCall (nnn : Imm12) (s : State) : StepResult :=
  if Config.stackDepth ≤ s.stack.length then reportRecoverable .stackOverflow (encode (.call nnn)) s
  else endOk ((s.push s.pc).setPC (zextAddr nnn))

/-- 3XNN (R108). -/
def execSeImm (x : RegName) (nn : Byte) (s : State) : StepResult := skipIf (s.reg x == nn) s

/-- 4XNN (R109). -/
def execSneImm (x : RegName) (nn : Byte) (s : State) : StepResult := skipIf (s.reg x != nn) s

/-- 5XY0 (R110). -/
def execSeReg (x y : RegName) (s : State) : StepResult := skipIf (s.reg x == s.reg y) s

/-- 9XY0 (R111). -/
def execSneReg (x y : RegName) (s : State) : StepResult := skipIf (s.reg x != s.reg y) s

/-- BNNN (R112): a 16-bit sum. -/
def execJpV0 (nnn : Imm12) (s : State) : StepResult := endOk (s.setPC (s.jumpOffset nnn + zextAddr nnn))

/-- A word of R76 (R113): nothing but the fetch's advance, outcome `Unknown(w)`. -/
def execUnknown (w : Word) (s : State) : StepResult := reportUnknown w s

end Sys2Proof.Machine
end

