-- ==== Sys2Proof/Machine/Display.lean ====
section
/-! DEFINITION. The frame buffer instructions CLS and DRW (42_display.md). -/

namespace Sys2Proof.Machine

/-- 00E0 (R161): every pixel 0; VF is not written. -/
def execCls (s : State) : StepResult := endOk (s.setFrame clearFrame)

/-- The body of R162's inner loop: where the sprite bit of column `c` is 1, the pixel at `((yc + r) mod 32,
(xc + c) mod 64)` is flipped, and the collision is noted if it was 1. -/
def blitPixel (xc yc r : Nat) (b : Byte) (p : Frame × Bool) (c : Nat) : Frame × Bool :=
  if spriteBit b c then
    (flipPixel p.1 ((yc + r) % Config.height) ((xc + c) % Config.width),
     p.2 || framePixel p.1 ((yc + r) % Config.height) ((xc + c) % Config.width))
  else p

/-- R162's loop over the eight columns of the sprite row `r`. -/
def blitRow (xc yc r : Nat) (b : Byte) (p : Frame × Bool) : Frame × Bool :=
  (List.range 8).foldl (blitPixel xc yc r b) p

/-- R162's loop over the sprite rows, from row `r` on; the Boolean is the collision so far. -/
def blitRows (xc yc : Nat) : Nat → List Byte → Frame × Bool → Frame × Bool
  | _, [], p => p
  | r, b :: bs, p => blitRows xc yc (r + 1) bs (blitRow xc yc r b p)

/-- DXYN (R162): coordinates and rows are read first, then VF is reset and the sprite is drawn; VF = collision. Where a
sprite byte is at 4096 or above, `Fatal(MemOutOfBounds)`, and the frame buffer and VF are free (R232; log 7). -/
def execDrw (x y : RegName) (n : Nibble) (s : State) : StepResult :=
  match firstOutOfBounds s.i.toNat n.toNat with
  | some a =>
    raiseFatal (.memOutOfBounds a (encode (.drw x y n)))
      ((s.setFlag (Config.haltedFlag s.draws)).setFrame (Config.haltedFrame s.draws)).countDraw
  | none =>
    let drawn := blitRows (s.reg x).toNat (s.reg y).toNat 0 (s.mem.readBytes s.i.toNat n.toNat) (s.fb, false)
    endOk ((s.setFlag (flagByte drawn.2)).setFrame drawn.1)

end Sys2Proof.Machine
end

