-- ==== Sys2Proof/Machine/IndexMemory.lean ====
section
/-! DEFINITION. The index register instructions and the memory transfers (44_index_memory.md). -/

namespace Sys2Proof.Machine

/-- ANNN (R200). -/
def execLdI (nnn : Imm12) (s : State) : StepResult := endOk (s.setIndex (zextAddr nnn))

/-- FX1E (R201): the sum modulo 2^16 to `I`; VF becomes 1 when the exact sum is above 0x1000, else is unchanged. -/
def execAddI (x : RegName) (s : State) : StepResult :=
  let moved := s.setIndex (BitVec.ofNat 16 (s.indexSum x))
  endOk (if indexOverflows (s.indexSum x) then moved.setFlag 1 else moved)

/-- FX29 (R202): `5 × V[x]`, not masked. -/
def execLdF (x : RegName) (s : State) : StepResult :=
  endOk (s.setIndex (BitVec.ofNat 16 (Config.glyphStride * (s.reg x).toNat)))

/-- FX33 (R203): hundreds, tens, units to `I`, `I + 1`, `I + 2`; `I` unchanged. -/
def execLdB (x : RegName) (s : State) : StepResult := storeAtIndex (bcdDigits (s.reg x)) (encode (.ldB x)) s

/-- FX55 (R204): V0 to Vx stored upward from `I`; `I` unchanged. -/
def execStoreRegs (x : RegName) (s : State) : StepResult := storeAtIndex (s.regsUpTo x) (encode (.storeRegs x)) s

/-- FX65 (R205): V0 to Vx loaded upward from `I`; `I` unchanged. -/
def execLoadRegs (x : RegName) (s : State) : StepResult := loadAtIndex (x.toNat + 1) (encode (.loadRegs x)) s

end Sys2Proof.Machine
end

