-- ==== Sys2Proof/Machine/KeypadTimers.lean ====
section
/-! DEFINITION. The key skips, the wait for a key, the timer instructions (43_keypad_timers.md). -/

namespace Sys2Proof.Machine

/-- EX9E (R180): skips if the key is pressed; an index above 15 is fatal. -/
def execSkp (x : RegName) (s : State) : StepResult :=
  withKeyIndex (s.reg x) (encode (.skp x)) s (fun k => skipIf (s.key k) s)

/-- EXA1 (R181): skips if the key is not pressed; an index above 15 is fatal. -/
def execSknp (x : RegName) (s : State) : StepResult :=
  withKeyIndex (s.reg x) (encode (.sknp x)) s (fun k => skipIf (!s.key k) s)

/-- FX07 (R184). -/
def execLdVxDT (x : RegName) (s : State) : StepResult := endOk (s.setReg x s.dt)

/-- FX0A (R182, R183): the lowest pressed key to `V[x]`, or `PC <- PC − 2` so that the next step executes it again. -/
def execLdVxK (x : RegName) (s : State) : StepResult :=
  match s.firstKey with
  | some k => endOk (s.setReg x (k.setWidth 8))
  | none => endOk (s.setPC (s.pc - 2))

/-- FX15 (R185). -/
def execLdDT (x : RegName) (s : State) : StepResult := endOk (s.setDelay (s.reg x))

/-- FX18 (R186). -/
def execLdST (x : RegName) (s : State) : StepResult := endOk (s.setSound (s.reg x))

end Sys2Proof.Machine
end

