-- ==== Sys2Proof/Machine/HostOps.lean ====
section
/-! DEFINITION. The host's operations on the core other than its step (R242 to R245, R260, R187). -/

namespace Sys2Proof.Machine

/-- `construct(rom, quirk)`, with the argument `FONT` (R260, R7): refused when the ROM is longer than 3584 bytes
(D25), else the construction state with the ROM copied to 512. -/
def construct (rom : List Byte) (font : Vector Byte 80) (quirk : Bool) : Option State :=
  if Config.romMax < rom.length then none
  else
    let s := State.initial font quirk
    some (s.setMem (s.mem.writeBytes Config.romBase rom))

/-- `set_key(k, pressed)` (R242): `K[k] <- pressed`. -/
def setKey (k : Nibble) (pressed : Bool) (s : State) : State := { s with keys := s.keys.set k.toNat pressed k.isLt }

/-- One timer after one tick: one less, never below zero (R187, R26). -/
def countDown (t : Byte) : Byte := if 0 < t.toNat then t - 1 else t

/-- `tick()` (R187): both timers (D20), nothing else. -/
def tick (s : State) : State := (s.setDelay (countDown s.dt)).setSound (countDown s.st)

/-- `frame()` (R245): the frame buffer as it stands, read only. -/
def frame (s : State) : Frame := s.fb

/-- `tone()` (R244): `ST ≠ 0`. -/
def tone (s : State) : Bool := s.st != 0

/-- The host's operations in one frame of the standard driver (R243): key updates, `ipf` steps, one tick. DESIGN CHOICE,
safe: R243 stops the steps on Fatal and does not say whether that frame's tick still runs. In this list the step after a
fatal one is `Fault.halted`, so the tick is reached only where the fatal step was the frame's last. Log 13. -/
def frameAgenda (keyUpdates : List (Nibble × Bool)) (ipf : Nat) : List HostOp :=
  keyUpdates.map (fun u => .setKey u.1 u.2) ++ List.replicate ipf .step ++ [.tick]

/-- The machine made ready to execute, as its very next step, the instruction word `w` placed at `PC`: the core not
halted and no other host operation before it. Log 1. -/
def readyToRun (s : State) (w : Word) : State := { s.placeWord w with halted := none, agenda := [] }

end Sys2Proof.Machine
end

