-- ==== Sys2Proof/Machine/Cycle.lean ====
section
/-! DEFINITION. The step cycle (R100, R101) and whose move comes next (R242, R243). -/

namespace Sys2Proof.Machine

/-- The handler of what a word decoded to (R100): an instruction's meaning, or R113 for an unknown opcode. -/
def execDecoded : Decoded → State → StepResult
  | .instr i, s => exec i s
  | .unknown w, s => execUnknown w s

/-- One step of the core (R100): none if halted; else the fetch, which is fatal when `PC > 4094` and then changes
nothing else (R101, R231); else the handler of the fetched word in the post-fetch state (R102). -/
def instrStep (s : State) : StepResult :=
  match s.halted with
  | some f => .fault (.halted f)
  | none =>
    if s.fetchOutOfBounds then raiseFatal (.pcOutOfBounds s.pc) s
    else execDecoded (decode s.fetchWord) s.postFetch

/-- One operation of the host (R242). -/
def hostOp : HostOp → State → StepResult
  | .step, s => instrStep s
  | .setKey k pressed, s => .next (setKey k pressed s)
  | .tick, s => .next (tick s)

/-- One move of the machine: the agenda's next host operation, or, when the agenda is empty, a step of the core.
Log 6. -/
def nextMove (s : State) : StepResult :=
  match s.agenda with
  | [] => instrStep s
  | op :: rest => hostOp op (s.setAgenda rest)

end Sys2Proof.Machine
end

