-- ==== Sys2Proof/Machine/Step.lean ====
section
/-! DEFINITION. The step, and an instruction placed where the step fetches. -/

namespace Sys2Proof.Machine

/-- One step of the machine: `nextMove` of Machine/Cycle.lean. -/
def step (s : State) : Host.Outcome State Fault Refusal := Sys2Proof.Machine.nextMove s

/-- The state with a table row's word (bit 0 the least significant) stored at `PC`, and nothing in the way of the very
next step fetching it. It stands for the ROM load. Log 1. -/
def State.withFetchWord (s : State) (nbits w : Nat) : State :=
  Sys2Proof.Machine.readyToRun s (Sys2Proof.tableWord nbits w)

end Sys2Proof.Machine
end

