-- ==== Sys2Proof/Safety.lean ====
section
/-! DEFINITION. The terms claims are stated in: the invariant, the parts of the machine for frames, waiting for a key,
where a sprite lands. -/

namespace Sys2Proof.Machine

/-! ### The invariant -/

/-- The values R103 gives `PC` between steps: "an indexed jump at most 0xFFF + 0xFF = 0x10FE". -/
def State.pcBounded (s : State) : Prop := s.pc.toNat ≤ 0x10FE

/-- R25 and R103: at most 16 entries, each "a value some call pushed (at most 4096)". -/
def State.stackBounded (s : State) : Prop := s.stack.length ≤ Config.stackDepth ∧ ∀ a ∈ s.stack, a.toNat ≤ 4096

/-- What every state the machine reaches satisfies: memory in canonical form, the stack bounded, the PC within R103's
range. -/
structure State.Inv (s : State) : Prop where
  memory : s.mem.wf = true
  stack : s.stackBounded
  pc : s.pcBounded

/-- The core runs: no fatal outcome has halted it (R30). -/
def State.Running (s : State) : Prop := s.halted = none

/-- A fetch is possible: the core runs and `PC ≤ 4094` (R100, R101). -/
def State.CanFetch (s : State) : Prop := s.Running ∧ s.pc.toNat ≤ 4094

/-- The next move is a step of the core: the host has nothing before it, or calls the step. -/
def State.CoreMoves (s : State) : Prop := s.agenda = [] ∨ ∃ rest, s.agenda = .step :: rest

/-- The state without the agenda entry that calls the step, if there is one. -/
def State.stepCalled (s : State) : State := s.setAgenda s.agenda.tail

/-! ### The parts of the machine, for frames -/

/-- One readable part of the machine. -/
inductive Part where
  | reg (x : RegName)
  | byte (a : Nat)
  | index
  | pc
  | stack
  | delay
  | sound
  | key (k : Nibble)
  | pixel (r c : Nat)
  | quirk
  | font
  | halted
  | draws
  | agenda
  deriving DecidableEq, Repr

/-- Two states read the same at a part. The outcome the last step returned is no part: each claim says it itself. -/
def Part.Same : Part → State → State → Prop
  | .reg x, s, t => t.reg x = s.reg x
  | .byte a, s, t => t.mem.read a = s.mem.read a
  | .index, s, t => t.i = s.i
  | .pc, s, t => t.pc = s.pc
  | .stack, s, t => t.stack = s.stack
  | .delay, s, t => t.dt = s.dt
  | .sound, s, t => t.st = s.st
  | .key k, s, t => t.key k = s.key k
  | .pixel r c, s, t => framePixel t.fb r c = framePixel s.fb r c
  | .quirk, s, t => t.quirk = s.quirk
  | .font, s, t => t.mem.font = s.mem.font
  | .halted, s, t => t.halted = s.halted
  | .draws, s, t => t.draws = s.draws
  | .agenda, s, t => t.agenda = s.agenda

/-- From `s` to `t` nothing changed but the parts that `written` names. -/
def ChangesOnly (written : Part → Prop) (s t : State) : Prop := ∀ p, ¬ written p → p.Same s t

/-- A list of parts as the parts written. -/
def Parts (ps : List Part) : Part → Prop := fun p => p ∈ ps

/-- The bytes at `base`, …, `base + count − 1`. -/
def BytesAt (base count : Nat) : Part → Prop := fun p => ∃ k, k < count ∧ p = .byte (base + k)

/-- The registers V0 to V(count − 1). -/
def RegsBelow (count : Nat) : Part → Prop := fun p => ∃ x : RegName, x.toNat < count ∧ p = .reg x

/-- Every pixel. -/
def AnyPixel : Part → Prop := fun p => ∃ r c, p = .pixel r c

/-- Union of two sets of parts. -/
def OrPart (f g : Part → Prop) : Part → Prop := fun p => f p ∨ g p

/-- The meaning completes: it answers a next state with outcome `Ok`, in which `post` holds and only the parts that
`written` names have changed. -/
def Completes (r : StepResult) (s : State) (written : Part → Prop) (post : State → Prop) : Prop :=
  ∃ t, r = .next t ∧ t.outcome = some .ok ∧ post t ∧ ChangesOnly written s t

/-- The meaning halts the core: it answers a next state whose halt mark and outcome are the fatal outcome, and only the
halt mark and the parts that `written` names have changed. -/
def HaltsWith (r : StepResult) (s : State) (f : Fatal) (written : Part → Prop) : Prop :=
  ∃ t, r = .next t ∧ t.halted = some f ∧ t.outcome = some (.fatal f) ∧
    ChangesOnly (OrPart (Parts [.halted]) written) s t

/-- The meaning is rejected with a recoverable error: it answers a next state with that outcome, and nothing else has
changed (R234, R235). -/
def Rejects (r : StepResult) (s : State) (kind : RecoverableKind) (w : Word) : Prop :=
  ∃ t, r = .next t ∧ t.outcome = some (.recoverable kind w) ∧ ChangesOnly (Parts []) s t

/-- The meanings of the instructions of a list, one after the other, each in the state the one before it left (nothing
is fetched between them); none if one does not complete with outcome `Ok`. -/
def execAll : List Instr → State → Option State
  | [], s => some s
  | i :: is, s =>
    match exec i s with
    | .next t => if t.outcome = some .ok then execAll is t else none
    | .fault _ => none
    | .refused _ => none

/-- A result with its next state changed by `f`. -/
def mapNext (f : State → State) : StepResult → StepResult
  | .next s => .next (f s)
  | .fault e => .fault e
  | .refused e => .refused e

/-- The same state in another dialect. -/
def State.withDialect (s : State) (q : Bool) : State := { s with quirk := q }

/-! ### Waiting for a key (R183) -/

/-- `AwaitingKey(x)`: the word at `PC` is FX0A with register `x` and every key is released (R183). -/
def State.AwaitingKey (s : State) (x : RegName) : Prop :=
  decode s.fetchWord = .instr (.ldVxK x) ∧ ∀ k, s.key k = false

/-! ### Where a sprite lands (R160, R162, R163) -/

/-- The sprite `rows` drawn at `(xc, yc)` has a 1-bit that lands on the pixel `(r, c)`, coordinates wrapping. -/
def SpriteCovers (rows : List Byte) (xc yc r c : Nat) : Prop :=
  ∃ i j, i < rows.length ∧ j < 8 ∧ spriteBit (rows.getD i 0) j = true ∧
    r = (yc + i) % Config.height ∧ c = (xc + j) % Config.width

/-- The rows of the sprite DXYN reads in a state (R160). -/
def State.spriteRows (s : State) (n : Nibble) : List Byte := s.mem.readBytes s.i.toNat n.toNat

end Sys2Proof.Machine
end

