-- ==== Sys2Proof/Certificates/Slice0/Obligations.lean ====
section
/-! DEFINITION. The statements for the provers, each from the rules its docstring names. `Completes`, `HaltsWith`,
`Rejects`, `ChangesOnly` and `Part` are in Safety.lean: `Completes r s written post` says that `r` is a next state with
outcome Ok, that `post` holds of it, and that no part of the machine (every register, every byte of memory, every pixel,
…) outside `written` has changed from `s`. In a statement about `exec`, `s.pc` is the post-fetch PC (R102). -/

open Sys2Proof Sys2Proof.Machine

/-! ### Construction and reset -/

/-- R33, R34, R35: for every ROM that fits, every font and either dialect, construction gives exactly these values. -/
def Obligations.ConstructionGivesTheStatedValues : Prop :=
  ∀ (rom : List Byte) (font : Vector Byte 80) (quirk : Bool), rom.length ≤ 3584 →
    ∃ s, construct rom font quirk = some s ∧
      (∀ x, s.reg x = 0) ∧ s.i = 0 ∧ s.pc.toNat = 512 ∧
      (∀ a (h : a < 80), s.mem.read a = font[a]) ∧
      (∀ k (h : k < rom.length), s.mem.read (512 + k) = rom[k]) ∧
      (∀ a, 80 ≤ a → a < 512 ∨ 512 + rom.length ≤ a → s.mem.read a = 0) ∧
      s.stack = [] ∧ s.dt = 0 ∧ s.st = 0 ∧ (∀ k, s.key k = false) ∧
      (∀ r c, framePixel s.fb r c = false) ∧ s.halted = none ∧ s.quirk = quirk

/-- R260, D25: a ROM of more than 3584 bytes is refused, whatever the font and the dialect. -/
def Obligations.OverlongRomIsRefused : Prop :=
  ∀ (rom : List Byte) (font : Vector Byte 80) (quirk : Bool), 3584 < rom.length → construct rom font quirk = none

/-- The model's choices (logs 1, 2, 3): State.reset is the construction of an empty ROM with the conventional font in the
legacy dialect. -/
def Obligations.ResetIsTheConstructionOfAnEmptyRom : Prop :=
  construct [] conventionalFont false = some State.reset

/-- The invariant holds at reset. -/
def Obligations.InvHoldsAtReset : Prop := State.reset.Inv

/-- The invariant holds of every constructed machine. -/
def Obligations.InvHoldsAfterConstruction : Prop :=
  ∀ (rom : List Byte) (font : Vector Byte 80) (quirk : Bool) (s : State), construct rom font quirk = some s → s.Inv

/-! ### The invariant -/

/-- R25, R103 and the canonical form of memory: every move of the machine keeps the invariant. -/
def Obligations.EveryStepKeepsInv : Prop := ∀ s t : State, s.Inv → step s = .next t → t.Inv

/-! ### Encoding -/

/-- R74, R75, R79: decoding the word of a well-formed instruction gives that instruction back, for every operand. -/
def Obligations.DecodeOfEncodeIsTheInstruction : Prop :=
  ∀ i : Instr, i.wellFormed = true → decode (encode i) = .instr i

/-- R79: an instruction the decoder reads is well formed, and its word is the word it was read from. -/
def Obligations.EncodeOfDecodeIsTheWord : Prop :=
  ∀ (w : Word) (i : Instr), decode w = .instr i → i.wellFormed = true ∧ encode i = w

/-- R76: the decoder answers `Unknown(w)` for exactly the words R76 lists, and an instruction for every other. -/
def Obligations.UnknownWordsAreThoseListed : Prop :=
  ∀ w : Word, (Word.isUnknown w = true → decode w = .unknown w) ∧
    (Word.isUnknown w = false → ∃ i, decode w = .instr i)

/-- R74: a word decodes to an instruction whose row of the opcode map it matches, and an unknown word matches no row. -/
def Obligations.DecodeFollowsTheOpcodeMap : Prop :=
  ∀ w : Word, (∀ i, decode w = .instr i → Word.matchesRow w i.tableRow = true) ∧
    (decode w = .unknown w → ∀ i : Instr, Word.matchesRow w i.tableRow = false)

/-- R75: 0x00E0 and 0x00EE are CLS and RET, every other word with nibble0 = 0 is SYS, and apart from that pair no word
matches two rows of the opcode map. -/
def Obligations.DecodePrecedenceOfClsAndRet : Prop :=
  decode 0x00E0#16 = .instr .cls ∧ decode 0x00EE#16 = .instr .ret ∧
  (∀ w : Word, Word.op w = 0#4 → w ≠ 0x00E0#16 → w ≠ 0x00EE#16 → decode w = .instr (.sys (Word.nnn w))) ∧
  (∀ (w : Word) (i j : Instr), w ≠ 0x00E0#16 → w ≠ 0x00EE#16 →
    Word.matchesRow w i.tableRow = true → Word.matchesRow w j.tableRow = true → i.tableRow = j.tableRow)

/-- R74, R75: words written out from the opcode map, one or more of each family, decode to what they stand for. -/
def Obligations.SampleWordsDecode : Prop :=
  decode 0x00EE#16 = .instr .ret ∧ decode 0x0FFF#16 = .instr (.sys 0xFFF) ∧ decode 0x1204#16 = .instr (.jp 0x204) ∧
  decode 0x3005#16 = .instr (.seImm 0 5) ∧ decode 0x5120#16 = .instr (.seReg 1 2) ∧
  decode 0x6005#16 = .instr (.ldImm 0 5) ∧ decode 0x812E#16 = .instr (.shl 1 2) ∧
  decode 0xDAB0#16 = .instr (.drw 0xA 0xB 0) ∧ decode 0xE4A1#16 = .instr (.sknp 4) ∧
  decode 0xF30A#16 = .instr (.ldVxK 3) ∧ decode 0xF255#16 = .instr (.storeRegs 2) ∧
  decode 0x5121#16 = .unknown 0x5121

/-! ### The step -/

/-- R100, R101, R102, R52: where the core moves (the agenda is the model's own, log 6) and can fetch, and the two bytes at PC, big-endian, are a word `w` that
decodes to an instruction, the step is that instruction's meaning in the state whose PC is 2 further (and whose agenda no
longer holds the call of this step). -/
def Obligations.StepRunsTheDecodedInstruction : Prop :=
  ∀ (s : State) (i : Instr) (w : Word), s.CoreMoves → s.CanFetch →
    w.toNat = (s.mem.read s.pc.toNat).toNat * 256 + (s.mem.read (s.pc.toNat + 1)).toNat → decode w = .instr i →
    step s = exec i { s.stepCalled with pc := s.pc + 2 } ∧ (s.pc + 2).toNat = s.pc.toNat + 2

/-- R113, R236 (the agenda is the model's own, log 6): an unknown opcode changes nothing but the fetch's advance of PC, and its outcome is `Unknown(w)`. -/
def Obligations.UnknownOpcodeIsASoftNoOp : Prop :=
  ∀ s : State, s.CoreMoves → s.CanFetch → Word.isUnknown s.fetchWord = true →
    ∃ t, step s = .next t ∧ t.outcome = some (.unknown s.fetchWord) ∧ t.pc.toNat = s.pc.toNat + 2 ∧
      ChangesOnly (Parts [.pc]) s.stepCalled t

/-- R231 (the agenda is the model's own, log 6): a step that begins with PC above 4094 is fatal, records the PC and changes nothing but the halt mark. -/
def Obligations.FetchOutOfBoundsHalts : Prop :=
  ∀ s : State, s.CoreMoves → s.Running → 4094 < s.pc.toNat →
    HaltsWith (step s) s.stepCalled (.pcOutOfBounds s.pc) (Parts [])

/-- R30, R100 (a fault is the model's form of "no step", log 8): a core that a fatal outcome has halted has no further step: the machine stops, with that outcome. -/
def Obligations.HaltedCoreHasNoStep : Prop :=
  ∀ (s : State) (f : Fatal), s.CoreMoves → s.halted = some f → step s = .fault (.halted f)

/-- R30: no move clears or replaces the halt mark. -/
def Obligations.HaltMarkIsNeverCleared : Prop :=
  ∀ (s t : State) (f : Fatal), step s = .next t → s.halted = some f → t.halted = some f

/-- R77, R100: no move is ever refused, and the only fault is the step of a core already halted. -/
def Obligations.OnlyAHaltedCoreStops : Prop :=
  ∀ s : State, (∀ r, step s ≠ .refused r) ∧
    ∀ e, step s = .fault e → s.CoreMoves ∧ ∃ f, s.halted = some f ∧ e = .halted f

/-! ### Control flow -/

/-- R104: SYS has no effect. -/
def Obligations.SysHasNoEffect : Prop :=
  ∀ (nnn : Imm12) (s : State), Completes (exec (.sys nnn) s) s (Parts []) (fun _ => True)

/-- R105, R235: RET takes the top of the stack off and into PC; with an empty stack it is rejected. -/
def Obligations.ReturnPopsOrIsRejected : Prop :=
  (∀ (s : State) (below : List Word) (a : Word), s.stack = below ++ [a] →
    Completes (exec .ret s) s (Parts [.pc, .stack]) (fun t => t.pc = a ∧ t.stack = below)) ∧
  (∀ s : State, s.stack = [] → Rejects (exec .ret s) s .stackUnderflow 0x00EE#16)

/-- R106: JP sets PC to NNN. -/
def Obligations.JumpSetsPC : Prop :=
  ∀ (nnn : Imm12) (s : State),
    Completes (exec (.jp nnn) s) s (Parts [.pc]) (fun t => t.pc.toNat = nnn.toNat)

/-- R107, R234: CALL pushes the post-fetch PC and jumps; with 16 entries on the stack it is rejected. -/
def Obligations.CallPushesOrIsRejected : Prop :=
  (∀ (nnn : Imm12) (s : State), s.stack.length < 16 →
    Completes (exec (.call nnn) s) s (Parts [.pc, .stack])
      (fun t => t.pc.toNat = nnn.toNat ∧ t.stack = s.stack ++ [s.pc])) ∧
  (∀ (nnn : Imm12) (s : State), s.stack.length = 16 →
    Rejects (exec (.call nnn) s) s .stackOverflow (encode (.call nnn)))

/-- R265, R25: up to capacity, calls to any targets followed by as many returns restore PC and the stack and change
nothing else. -/
def Obligations.CallsThenReturnsRestore : Prop :=
  ∀ (targets : List Imm12) (s : State), s.stack.length + targets.length ≤ 16 →
    ∃ t, execAll (targets.map .call ++ List.replicate targets.length .ret) s = some t ∧ ChangesOnly (Parts []) s t

/-- R108 to R111: each register skip adds 2 to PC exactly when its condition holds. -/
def Obligations.RegisterSkipsFollowTheirConditions : Prop :=
  ∀ (x y : RegName) (nn : Byte) (s : State),
    Completes (exec (.seImm x nn) s) s (Parts [.pc]) (fun t => t.pc = if s.reg x = nn then s.pc + 2 else s.pc) ∧
    Completes (exec (.sneImm x nn) s) s (Parts [.pc]) (fun t => t.pc = if s.reg x = nn then s.pc else s.pc + 2) ∧
    Completes (exec (.seReg x y) s) s (Parts [.pc]) (fun t => t.pc = if s.reg x = s.reg y then s.pc + 2 else s.pc) ∧
    Completes (exec (.sneReg x y) s) s (Parts [.pc]) (fun t => t.pc = if s.reg x = s.reg y then s.pc else s.pc + 2)

/-- R112: the indexed jump's target is the exact sum of NNN and V0 (legacy) or the register that `w[11:8]`, the top
nibble of NNN, names (alternate). It relies on the spec's choice of a 16-bit addition (D12, C3; U4 asks that this be said). -/
def Obligations.IndexedJumpAddsExactly : Prop :=
  ∀ (nnn : Imm12) (s : State),
    Completes (exec (.jpV0 nnn) s) s (Parts [.pc]) (fun t =>
      t.pc.toNat =
        (if s.quirk = false then s.reg 0 else s.reg (BitVec.ofNat 4 (nnn.toNat / 256))).toNat + nnn.toNat)

/-! ### Arithmetic -/

/-- R131, R133: LD Vx, NN and LD Vx, Vy. -/
def Obligations.LoadsWriteOnlyTheirDestination : Prop :=
  ∀ (x y : RegName) (nn : Byte) (s : State),
    Completes (exec (.ldImm x nn) s) s (Parts [.reg x]) (fun t => t.reg x = nn) ∧
    Completes (exec (.ldReg x y) s) s (Parts [.reg x]) (fun t => t.reg x = s.reg y)

/-- R132: ADD Vx, NN wraps and touches no flag. -/
def Obligations.AddImmediateWrapsWithoutFlag : Prop :=
  ∀ (x : RegName) (nn : Byte) (s : State),
    Completes (exec (.addImm x nn) s) s (Parts [.reg x])
      (fun t => (t.reg x).toNat = ((s.reg x).toNat + nn.toNat) % 256)

/-- R134, R135, R136: OR, AND, XOR, bit by bit; VF is not reset. -/
def Obligations.LogicIsBitwiseWithoutFlag : Prop :=
  ∀ (x y : RegName) (s : State),
    Completes (exec (.orReg x y) s) s (Parts [.reg x])
      (fun t => ∀ b, (t.reg x).getLsbD b = ((s.reg x).getLsbD b || (s.reg y).getLsbD b)) ∧
    Completes (exec (.andReg x y) s) s (Parts [.reg x])
      (fun t => ∀ b, (t.reg x).getLsbD b = ((s.reg x).getLsbD b && (s.reg y).getLsbD b)) ∧
    Completes (exec (.xorReg x y) s) s (Parts [.reg x])
      (fun t => ∀ b, (t.reg x).getLsbD b = ((s.reg x).getLsbD b ^^ (s.reg y).getLsbD b))

/-- R137: ADD Vx, Vy; VF is the carry. That it is so also when VF is the destination is the spec's own choice (R130,
decisions D9 and D10; log 11). -/
def Obligations.AddSetsCarry : Prop :=
  ∀ (x y : RegName) (s : State),
    Completes (exec (.addReg x y) s) s (Parts [.reg x, .reg vF]) (fun t =>
      (x ≠ vF → (t.reg x).toNat = ((s.reg x).toNat + (s.reg y).toNat) % 256) ∧
      t.reg vF = if 255 < (s.reg x).toNat + (s.reg y).toNat then 1 else 0)

/-- R138, R140: SUB and SUBN; VF is 1 exactly when no borrow occurred. That it is so also when VF is the destination is
the spec's own choice (R130, decisions D9 and D10; log 11). -/
def Obligations.SubtractionsSetNoBorrow : Prop :=
  ∀ (x y : RegName) (s : State),
    Completes (exec (.sub x y) s) s (Parts [.reg x, .reg vF]) (fun t =>
      (x ≠ vF → (t.reg x).toNat = ((s.reg x).toNat + 256 - (s.reg y).toNat) % 256) ∧
      t.reg vF = if (s.reg y).toNat ≤ (s.reg x).toNat then 1 else 0) ∧
    Completes (exec (.subn x y) s) s (Parts [.reg x, .reg vF]) (fun t =>
      (x ≠ vF → (t.reg x).toNat = ((s.reg y).toNat + 256 - (s.reg x).toNat) % 256) ∧
      t.reg vF = if (s.reg x).toNat ≤ (s.reg y).toNat then 1 else 0)

/-- R139, R141: SHR and SHL; the source is Vy in the legacy dialect (D11's reading) and Vx in the alternate; VF is the bit
shifted out. That it is so also when VF is the destination is the spec's own choice (R130, decisions D9 and D10; log
11). -/
def Obligations.ShiftsFollowTheDialect : Prop :=
  ∀ (x y : RegName) (s : State) (src : Nat), src = (if s.quirk = false then s.reg y else s.reg x).toNat →
    Completes (exec (.shr x y) s) s (Parts [.reg x, .reg vF]) (fun t =>
      (x ≠ vF → (t.reg x).toNat = src / 2) ∧ (t.reg vF).toNat = src % 2) ∧
    Completes (exec (.shl x y) s) s (Parts [.reg x, .reg vF]) (fun t =>
      (x ≠ vF → (t.reg x).toNat = 2 * src % 256) ∧ (t.reg vF).toNat = src / 128)

/-- R142: RND writes the step's draw masked with NN, whatever the draw is. That the draw is the free value
`Config.rand8` at the counter, and that the counter then advances, is the model's form of it (log 4). -/
def Obligations.RandomIsTheMaskedDraw : Prop :=
  ∀ (x : RegName) (nn : Byte) (s : State),
    Completes (exec (.rnd x nn) s) s (Parts [.reg x, .draws]) (fun t =>
      (∀ b, (t.reg x).getLsbD b = ((Config.rand8 s.draws).getLsbD b && nn.getLsbD b)) ∧ t.draws = s.draws + 1)

/-! ### Display -/

/-- R161: CLS makes every pixel 0 and writes no flag. -/
def Obligations.ClearZeroesEveryPixel : Prop :=
  ∀ s : State, Completes (exec .cls s) s AnyPixel (fun t => ∀ r c, framePixel t.fb r c = false)

/-- R162, R163: DXYN with its sprite in memory (or of no rows) flips exactly the pixels a 1-bit of the sprite lands on,
coordinates wrapping, and VF is 1 exactly when one of those pixels was 1; with a sprite byte at 4096 or above it halts
the core at the first such address, and then the frame buffer and VF are not specified. -/
def Obligations.DrawFlipsTheSpritesPixels : Prop :=
  ∀ (x y : RegName) (n : Nibble) (s : State) (xc yc : Nat),
    xc = (s.reg x).toNat → yc = (s.reg y).toNat →
    (n = 0 ∨ s.i.toNat + n.toNat ≤ 4096 →
      Completes (exec (.drw x y n) s) s (OrPart (Parts [.reg vF]) AnyPixel) (fun t =>
        (∀ r c, r < 32 → c < 64 →
          (SpriteCovers (s.spriteRows n) xc yc r c → framePixel t.fb r c = !framePixel s.fb r c) ∧
          (¬ SpriteCovers (s.spriteRows n) xc yc r c → framePixel t.fb r c = framePixel s.fb r c)) ∧
        ((∃ r c, SpriteCovers (s.spriteRows n) xc yc r c ∧ framePixel s.fb r c = true) → t.reg vF = 1) ∧
        ((¬ ∃ r c, SpriteCovers (s.spriteRows n) xc yc r c ∧ framePixel s.fb r c = true) → t.reg vF = 0))) ∧
    (n ≠ 0 → 4096 < s.i.toNat + n.toNat →
      HaltsWith (exec (.drw x y n) s) s (.memOutOfBounds (max s.i.toNat 4096) (encode (.drw x y n)))
        (OrPart (Parts [.reg vF, .draws, .pc]) AnyPixel))

/-- R162, R163, R164: the same sprite drawn again at the same place, with nothing in between that changes the frame
buffer, the sprite or its coordinates, restores every pixel; VF is then 1 exactly when a 1-bit of the sprite lands on a
pixel that was 0 before the first draw, so after a sprite of zero bytes both draws leave VF 0. R164 gives VF = 1
"whenever the sprite has at least one 1-bit"; by R162 that is so exactly where such a pixel was 0, and the source's
scenario S2 contradicts it elsewhere (log 12). -/
def Obligations.DrawingTwiceRestores : Prop :=
  ∀ (x y : RegName) (n : Nibble) (s t t' : State) (rows : List Byte) (xc yc : Nat),
    rows = s.spriteRows n → xc = (s.reg x).toNat → yc = (s.reg y).toNat →
    n = 0 ∨ s.i.toNat + n.toNat ≤ 4096 → exec (.drw x y n) s = .next t →
    t'.fb = t.fb → t'.i = s.i → t'.spriteRows n = rows → t'.reg x = s.reg x → t'.reg y = s.reg y →
    ∃ u, exec (.drw x y n) t' = .next u ∧ u.outcome = some .ok ∧
      (∀ r c, framePixel u.fb r c = framePixel s.fb r c) ∧
      ((∃ r c, SpriteCovers rows xc yc r c ∧ framePixel s.fb r c = false) → u.reg vF = 1) ∧
      ((¬ ∃ r c, SpriteCovers rows xc yc r c ∧ framePixel s.fb r c = false) → u.reg vF = 0) ∧
      ((∀ b ∈ rows, b = 0) → t.reg vF = 0 ∧ u.reg vF = 0)

/-! ### Keypad and timers -/

/-- R180, R181: the key skips, for an index up to 15; a larger index halts the core, and nothing but PC may differ. (What
PC then holds is `FatalInstructionsLeaveThePostFetchPC`.) -/
def Obligations.KeySkipsReadTheKeypad : Prop :=
  ∀ (x : RegName) (s : State),
    (∀ k : Nibble, k.toNat = (s.reg x).toNat →
      Completes (exec (.skp x) s) s (Parts [.pc]) (fun t => t.pc = if s.key k then s.pc + 2 else s.pc) ∧
      Completes (exec (.sknp x) s) s (Parts [.pc]) (fun t => t.pc = if s.key k then s.pc else s.pc + 2)) ∧
    (15 < (s.reg x).toNat →
      HaltsWith (exec (.skp x) s) s (.keyIndexOutOfRange (s.reg x) (encode (.skp x))) (Parts [.pc]) ∧
      HaltsWith (exec (.sknp x) s) s (.keyIndexOutOfRange (s.reg x) (encode (.sknp x))) (Parts [.pc]))

/-- R182: FX0A writes the lowest pressed key, or, with no key pressed, takes 2 off the post-fetch PC. -/
def Obligations.WaitForKeyTakesTheLowest : Prop :=
  ∀ (x : RegName) (s : State),
    (∀ k : Nibble, s.key k = true → (∀ j : Nibble, j.toNat < k.toNat → s.key j = false) →
      Completes (exec (.ldVxK x) s) s (Parts [.reg x]) (fun t => (t.reg x).toNat = k.toNat)) ∧
    ((∀ k : Nibble, s.key k = false) →
      Completes (exec (.ldVxK x) s) s (Parts [.pc]) (fun t => t.pc = s.pc - 2))

/-- R183: in `AwaitingKey(x)` a step changes nothing at all, its outcome is Ok, and the core still awaits the key. -/
def Obligations.AwaitingKeyStepChangesNothing : Prop :=
  ∀ (x : RegName) (s : State), s.CoreMoves → s.CanFetch → s.AwaitingKey x →
    ∃ t, step s = .next t ∧ t.outcome = some .ok ∧ ChangesOnly (Parts []) s.stepCalled t ∧ t.AwaitingKey x

/-- R183, R242: a key pressed by the host ends the wait: the next step writes the lowest pressed key, which is that one,
and leaves PC past the FX0A. -/
def Obligations.KeyPressEndsTheWait : Prop :=
  ∀ (x : RegName) (s : State) (k : Nibble), s.CanFetch → s.AwaitingKey x → s.agenda = [.setKey k true] →
    ∃ t u, step s = .next t ∧ step t = .next u ∧ u.outcome = some .ok ∧ (u.reg x).toNat = k.toNat ∧
      u.pc.toNat = s.pc.toNat + 2 ∧ ChangesOnly (Parts [.reg x, .pc, .key k, .agenda]) s u

/-- R184, R185, R186: the timer instructions. -/
def Obligations.TimerInstructionsMoveTheirValue : Prop :=
  ∀ (x : RegName) (s : State),
    Completes (exec (.ldVxDT x) s) s (Parts [.reg x]) (fun t => t.reg x = s.dt) ∧
    Completes (exec (.ldDT x) s) s (Parts [.delay]) (fun t => t.dt = s.reg x) ∧
    Completes (exec (.ldST x) s) s (Parts [.sound]) (fun t => t.st = s.reg x)

/-- R187: the host's tick (an entry of the agenda, the model's own, log 6) takes 1 off each timer above 0, and changes nothing else, on a halted core too (log 10). -/
def Obligations.TickCountsBothTimersDown : Prop :=
  ∀ (s : State) (rest : List HostOp), s.agenda = .tick :: rest →
    ∃ t, step s = .next t ∧ t.dt.toNat = s.dt.toNat - 1 ∧ t.st.toNat = s.st.toNat - 1 ∧ t.outcome = s.outcome ∧
      t.agenda = rest ∧ ChangesOnly (Parts [.delay, .sound, .agenda]) s t

/-- R242, R27: the host's `set_key(k, pressed)` (an entry of the agenda, the model's own, log 6) sets that key and changes nothing else. -/
def Obligations.SetKeySetsOneKey : Prop :=
  ∀ (s : State) (k : Nibble) (pressed : Bool) (rest : List HostOp), s.agenda = .setKey k pressed :: rest →
    ∃ t, step s = .next t ∧ t.key k = pressed ∧ t.outcome = s.outcome ∧ t.agenda = rest ∧
      ChangesOnly (Parts [.key k, .agenda]) s t

/-- The model's deduction, log 9 (R13, R102): an instruction that ends with a fatal outcome leaves the PC it executed
with, the post-fetch PC. -/
def Obligations.FatalInstructionsLeaveThePostFetchPC : Prop :=
  ∀ (i : Instr) (s t : State) (f : Fatal), exec i s = .next t → t.outcome = some (.fatal f) →
    t.pc = s.pc ∧ t.halted = some f

/-! ### Index register and memory -/

/-- R200, R202: LD I, NNN; and LD F, Vx: five times the register, not masked. -/
def Obligations.IndexLoads : Prop :=
  ∀ (nnn : Imm12) (x : RegName) (s : State),
    Completes (exec (.ldI nnn) s) s (Parts [.index]) (fun t => t.i.toNat = nnn.toNat) ∧
    Completes (exec (.ldF x) s) s (Parts [.index]) (fun t => t.i.toNat = 5 * (s.reg x).toNat)

/-- R201: ADD I, Vx; VF becomes 1 when the exact sum is above 0x1000 and is unchanged otherwise. At a
sum of exactly 0x1000 this is the spec's own choice (D13, C2), which U14 calls at risk; no other statement rests on it. -/
def Obligations.IndexAddFlagsOverflow : Prop :=
  ∀ (x : RegName) (s : State) (sum : Nat), sum = s.i.toNat + (s.reg x).toNat →
    Completes (exec (.addI x) s) s (Parts [.index, .reg vF]) (fun t =>
      t.i.toNat = sum % 65536 ∧ t.reg vF = if 0x1000 < sum then 1 else s.reg vF)

/-- R203: LD B, Vx stores the hundreds, tens and units; with a digit's address at 4096 or above it halts the core at the
first such (the spec's own choice, D7), and which digits below were stored is not specified (R232, D28; free, log 7). -/
def Obligations.BcdStoresThreeDigits : Prop :=
  ∀ (x : RegName) (s : State) (v : Nat), s.mem.wf = true → v = (s.reg x).toNat →
    (s.i.toNat + 3 ≤ 4096 →
      Completes (exec (.ldB x) s) s (BytesAt s.i.toNat 3) (fun t =>
        (t.mem.read s.i.toNat).toNat = v / 100 ∧ (t.mem.read (s.i.toNat + 1)).toNat = v / 10 % 10 ∧
        (t.mem.read (s.i.toNat + 2)).toNat = v % 10)) ∧
    (4096 < s.i.toNat + 3 →
      HaltsWith (exec (.ldB x) s) s (.memOutOfBounds (max s.i.toNat 4096) (encode (.ldB x)))
        (OrPart (BytesAt s.i.toNat 3) (Parts [.draws, .pc])))

/-- R204: LD [I], Vx stores V0 to Vx upward from I, which is unchanged; out of memory it halts the core at the first
address out of bounds, and which registers below were stored is not specified. -/
def Obligations.BlockStoreWritesV0ToVx : Prop :=
  ∀ (x : RegName) (s : State), s.mem.wf = true →
    (s.i.toNat + (x.toNat + 1) ≤ 4096 →
      Completes (exec (.storeRegs x) s) s (BytesAt s.i.toNat (x.toNat + 1))
        (fun t => ∀ r : RegName, r.toNat ≤ x.toNat → t.mem.read (s.i.toNat + r.toNat) = s.reg r)) ∧
    (4096 < s.i.toNat + (x.toNat + 1) →
      HaltsWith (exec (.storeRegs x) s) s (.memOutOfBounds (max s.i.toNat 4096) (encode (.storeRegs x)))
        (OrPart (BytesAt s.i.toNat (x.toNat + 1)) (Parts [.draws, .pc])))

/-- R205: LD Vx, [I] loads V0 to Vx upward from I, which is unchanged; out of memory it halts the core at the first
address out of bounds, and which registers were loaded is not specified. -/
def Obligations.BlockLoadReadsV0ToVx : Prop :=
  ∀ (x : RegName) (s : State),
    (s.i.toNat + (x.toNat + 1) ≤ 4096 →
      Completes (exec (.loadRegs x) s) s (RegsBelow (x.toNat + 1))
        (fun t => ∀ r : RegName, r.toNat ≤ x.toNat → t.reg r = s.mem.read (s.i.toNat + r.toNat))) ∧
    (4096 < s.i.toNat + (x.toNat + 1) →
      HaltsWith (exec (.loadRegs x) s) s (.memOutOfBounds (max s.i.toNat 4096) (encode (.loadRegs x)))
        (OrPart (RegsBelow (x.toNat + 1)) (Parts [.draws, .pc])))

/-- R204, R205: a block load from the memory a block store left, with the same I, gives the stored registers back,
whatever the registers held meanwhile. -/
def Obligations.LoadAfterStoreGivesTheRegistersBack : Prop :=
  ∀ (x : RegName) (s t u : State), s.mem.wf = true → s.i.toNat + (x.toNat + 1) ≤ 4096 →
    exec (.storeRegs x) s = .next t → u.mem = t.mem → u.i = s.i →
    ∃ u', exec (.loadRegs x) u = .next u' ∧ ∀ r : RegName, r.toNat ≤ x.toNat → u'.reg r = s.reg r

/-- R62, R264: a store to the bytes the next fetch reads is what that fetch gives. -/
def Obligations.FetchSeesThePrecedingStore : Prop :=
  ∀ (x : RegName) (s : State), s.mem.wf = true → s.i = s.pc → 1 ≤ x.toNat → s.i.toNat + (x.toNat + 1) ≤ 4096 →
    ∃ t, exec (.storeRegs x) s = .next t ∧ t.pc = s.pc ∧
      t.fetchWord.toNat = (s.reg 0).toNat * 256 + (s.reg 1).toNat

/-! ### Rules of the whole machine -/

/-- R24: PC is written only by the control-flow instructions, the skips and FX0A (that a fatal outcome of another
instruction leaves PC is log 9). -/
def Obligations.OnlyControlTransfersWritePC : Prop :=
  ∀ (i : Instr) (s t : State), exec i s = .next t → t.pc = s.pc ∨
    i = .ret ∨ (∃ a, i = .jp a ∨ i = .call a ∨ i = .jpV0 a) ∨ (∃ x nn, i = .seImm x nn ∨ i = .sneImm x nn) ∨
    (∃ x y, i = .seReg x y ∨ i = .sneReg x y) ∨ (∃ x, i = .skp x ∨ i = .sknp x ∨ i = .ldVxK x)

/-- R23: the index register is written only by ANNN, FX1E and FX29. -/
def Obligations.OnlyIndexInstructionsWriteI : Prop :=
  ∀ (i : Instr) (s t : State), exec i s = .next t → t.i = s.i ∨
    (∃ a, i = .ldI a) ∨ (∃ x, i = .addI x ∨ i = .ldF x)

/-- R25: the call stack is written only by CALL and RET. -/
def Obligations.OnlyCallAndReturnWriteTheStack : Prop :=
  ∀ (i : Instr) (s t : State), exec i s = .next t → t.stack = s.stack ∨ i = .ret ∨ ∃ a, i = .call a

/-- R28: the frame buffer is written only by CLS and DRW. -/
def Obligations.OnlyClearAndDrawWriteTheFrame : Prop :=
  ∀ (i : Instr) (s t : State), exec i s = .next t → t.fb = s.fb ∨ i = .cls ∨ ∃ x y n, i = .drw x y n

/-- R50, R53: memory is written only by FX33 and FX55. -/
def Obligations.OnlyTheTwoStoresWriteMemory : Prop :=
  ∀ (i : Instr) (s t : State), exec i s = .next t → t.mem = s.mem ∨ ∃ x, i = .ldB x ∨ i = .storeRegs x

/-- R22: VF changes only in the seven instructions that write a flag, or where VF is a destination of the instruction. -/
def Obligations.OnlyListedInstructionsWriteVF : Prop :=
  ∀ (i : Instr) (s t : State), exec i s = .next t → t.reg vF = s.reg vF ∨
    (∃ x y, i = .addReg x y ∨ i = .sub x y ∨ i = .shr x y ∨ i = .subn x y ∨ i = .shl x y) ∨
    (∃ x y n, i = .drw x y n) ∨ (∃ x, i = .addI x) ∨
    (∃ nn, i = .ldImm vF nn ∨ i = .addImm vF nn ∨ i = .rnd vF nn) ∨
    (∃ y, i = .ldReg vF y ∨ i = .orReg vF y ∨ i = .andReg vF y ∨ i = .xorReg vF y) ∨
    i = .ldVxDT vF ∨ i = .ldVxK vF ∨ i = .loadRegs vF

/-- R26, R27, R244: no instruction writes the keypad; DT is written only by FX15 and ST only by FX18. -/
def Obligations.KeypadAndTimersChangeOnlyAsListed : Prop :=
  ∀ (i : Instr) (s t : State), exec i s = .next t →
    t.keys = s.keys ∧ (t.dt = s.dt ∨ ∃ x, i = .ldDT x) ∧ (t.st = s.st ∨ ∃ x, i = .ldST x)

/-- R37, D3: no move changes the dialect or the font the machine was constructed with. -/
def Obligations.ConstructionArgumentsNeverChange : Prop :=
  ∀ s t : State, step s = .next t → t.quirk = s.quirk ∧ t.mem.font = s.mem.font

/-- R29, R78: the dialect changes what only 8XY6, 8XYE and BNNN do: of every other instruction, the result in the other
dialect is the result in this one with the dialect exchanged. -/
def Obligations.DialectMattersOnlyInShiftsAndIndexedJump : Prop :=
  ∀ (i : Instr) (s : State) (q : Bool), (∀ x y, i ≠ .shr x y ∧ i ≠ .shl x y) → (∀ a, i ≠ .jpV0 a) →
    exec i (s.withDialect q) = mapNext (fun t => t.withDialect q) (exec i s)

/-- R268: where Vx equals Vy (for the shifts) or the register of the alternate indexed jump equals V0, the two dialects
agree on these instructions too. -/
def Obligations.DialectsAgreeOnEqualOperands : Prop :=
  ∀ (x y : RegName) (nnn : Imm12) (s : State) (q : Bool),
    (s.reg x = s.reg y →
      exec (.shr x y) (s.withDialect q) = mapNext (fun t => t.withDialect q) (exec (.shr x y) s) ∧
      exec (.shl x y) (s.withDialect q) = mapNext (fun t => t.withDialect q) (exec (.shl x y) s)) ∧
    (s.reg (BitVec.ofNat 4 (nnn.toNat / 256)) = s.reg 0 →
      exec (.jpV0 nnn) (s.withDialect q) = mapNext (fun t => t.withDialect q) (exec (.jpV0 nnn) s))
end

