-- ==== Sys2Proof/Laws/Display.lean ====
section
/-! SUPPORT. The pixels of the frame buffer after a flip and after a clear. -/

namespace Sys2Proof.Machine

theorem framePixel_eq (f : Frame) {r c : Nat} (hr : r < 32) (hc : c < 64) : framePixel f r c = f[r][c] := by
  simp [framePixel, hr, hc]

/-- R162: flipping a pixel changes that pixel only. -/
theorem framePixel_flipPixel (f : Frame) {r c : Nat} (hr : r < 32) (hc : c < 64) (r' c' : Nat) :
    framePixel (flipPixel f r c) r' c' =
      if r' = r ∧ c' = c then !framePixel f r c else framePixel f r' c' := by
  have hrow : f[r]? = some f[r] := by simp [hr]
  by_cases hr' : r' < 32
  · by_cases hc' : c' < 64
    · rw [framePixel_eq _ hr' hc', framePixel_eq _ hr hc, framePixel_eq _ hr' hc']
      simp only [flipPixel, hrow, Vector.getElem_setIfInBounds]
      by_cases e : r = r'
      · subst e
        by_cases e' : c = c'
        · subst e'; simp [framePixel_eq f hr hc]
        · simp [e', Ne.symm e']
      · simp [e, Ne.symm e]
    · have hne : ¬ (r' = r ∧ c' = c) := by omega
      simp [framePixel, hr', hc', hne]
  · have hne : ¬ (r' = r ∧ c' = c) := by omega
    simp [framePixel, hr', hne]

/-- R161: after a clear every pixel is 0. -/
theorem framePixel_clearFrame (r c : Nat) : framePixel clearFrame r c = false := by
  by_cases hr : r < 32
  · by_cases hc : c < 64
    · rw [framePixel_eq _ hr hc]; simp [clearFrame]
    · simp [framePixel, clearFrame, hr, hc]
  · simp [framePixel, hr]

end Sys2Proof.Machine
end

