-- ==== Sys2Proof/Laws/Encoding.lean ====
section
/-! SUPPORT. The fields of a word that was built from fields, and a word rebuilt from its fields. -/

namespace Sys2Proof

/-! ### Bits of a word built from fields -/

theorem bit_ofA (op : Nibble) (nnn : Imm12) (i : Nat) :
    (Word.ofA op nnn).getLsbD i = if i < 12 then nnn.getLsbD i else op.getLsbD (i - 12) := BitVec.getLsbD_append

theorem bit_imm12 (x : RegName) (nn : Byte) (i : Nat) :
    (Imm12.ofXNN x nn).getLsbD i = if i < 8 then nn.getLsbD i else x.getLsbD (i - 8) := BitVec.getLsbD_append

theorem bit_byte (y : RegName) (n : Nibble) (i : Nat) :
    (Byte.ofYN y n).getLsbD i = if i < 4 then n.getLsbD i else y.getLsbD (i - 4) := BitVec.getLsbD_append

theorem bit_ofBytes (hi lo : Byte) (i : Nat) :
    (Word.ofBytes hi lo).getLsbD i = if i < 8 then lo.getLsbD i else hi.getLsbD (i - 8) := BitVec.getLsbD_append

/-! ### Fields of a built word -/

section Built

variable (op x y n : Nibble) (nn : Byte) (nnn : Imm12)

@[simp] theorem op_ofA : Word.op (Word.ofA op nnn) = op := by
  apply BitVec.eq_of_getLsbD_eq; intro i hi
  simp [Word.op, bit_ofA, hi]

@[simp] theorem nnn_ofA : Word.nnn (Word.ofA op nnn) = nnn := by
  apply BitVec.eq_of_getLsbD_eq; intro i hi
  simp only [Word.nnn, BitVec.getLsbD_extractLsb', bit_ofA, Nat.zero_add, hi, decide_true, Bool.true_and, if_true]

@[simp] theorem op_ofXNN : Word.op (Word.ofXNN op x nn) = op := op_ofA op (Imm12.ofXNN x nn)

@[simp] theorem x_ofXNN : Word.x (Word.ofXNN op x nn) = x := by
  apply BitVec.eq_of_getLsbD_eq; intro i hi
  have h : 8 + i < 12 := by omega
  simp only [Word.x, Word.ofXNN, BitVec.getLsbD_extractLsb', bit_ofA, bit_imm12, hi, h, decide_true, Bool.true_and, if_true]
  simp

@[simp] theorem nn_ofXNN : Word.nn (Word.ofXNN op x nn) = nn := by
  apply BitVec.eq_of_getLsbD_eq; intro i hi
  have h : i < 12 := by omega
  simp only [Word.nn, Word.ofXNN, BitVec.getLsbD_extractLsb', bit_ofA, bit_imm12, Nat.zero_add, hi, h, decide_true,
    Bool.true_and, if_true]

@[simp] theorem op_ofXYN : Word.op (Word.ofXYN op x y n) = op := op_ofXNN op x (Byte.ofYN y n)

@[simp] theorem x_ofXYN : Word.x (Word.ofXYN op x y n) = x := x_ofXNN op x (Byte.ofYN y n)

@[simp] theorem y_ofXYN : Word.y (Word.ofXYN op x y n) = y := by
  apply BitVec.eq_of_getLsbD_eq; intro i hi
  have h : 4 + i < 12 := by omega
  have h' : 4 + i < 8 := by omega
  simp only [Word.y, Word.ofXYN, Word.ofXNN, BitVec.getLsbD_extractLsb', bit_ofA, bit_imm12, bit_byte, hi, h, h',
    decide_true, Bool.true_and, if_true]
  simp

@[simp] theorem n_ofXYN : Word.n (Word.ofXYN op x y n) = n := by
  apply BitVec.eq_of_getLsbD_eq; intro i hi
  have h : i < 12 := by omega
  have h' : i < 8 := by omega
  simp only [Word.n, Word.ofXYN, Word.ofXNN, BitVec.getLsbD_extractLsb', bit_ofA, bit_imm12, bit_byte, Nat.zero_add, hi,
    h, h', decide_true, Bool.true_and, if_true]

end Built

/-! ### A word rebuilt from its fields -/

section Rebuilt

variable (w : Word)

theorem ofA_fields : Word.ofA (Word.op w) (Word.nnn w) = w := by
  apply BitVec.eq_of_getLsbD_eq; intro i hi
  simp only [bit_ofA, Word.op, Word.nnn, BitVec.getLsbD_extractLsb', Nat.zero_add]
  split
  · simp [*]
  · rw [show 12 + (i - 12) = i by omega]; simp; omega

theorem imm12_fields : Imm12.ofXNN (Word.x w) (Word.nn w) = Word.nnn w := by
  apply BitVec.eq_of_getLsbD_eq; intro i hi
  simp only [bit_imm12, Word.x, Word.nn, Word.nnn, BitVec.getLsbD_extractLsb', Nat.zero_add]
  split
  · simp [*]
  · rw [show 8 + (i - 8) = i by omega]; simp [hi, show i - 8 < 4 by omega]

theorem byte_fields : Byte.ofYN (Word.y w) (Word.n w) = Word.nn w := by
  apply BitVec.eq_of_getLsbD_eq; intro i hi
  simp only [bit_byte, Word.y, Word.n, Word.nn, BitVec.getLsbD_extractLsb', Nat.zero_add]
  split
  · simp [*]
  · rw [show 4 + (i - 4) = i by omega]; simp [hi, show i - 4 < 4 by omega]

theorem ofXNN_fields : Word.ofXNN (Word.op w) (Word.x w) (Word.nn w) = w := by
  rw [Word.ofXNN, imm12_fields, ofA_fields]

theorem ofXYN_fields : Word.ofXYN (Word.op w) (Word.x w) (Word.y w) (Word.n w) = w := by
  rw [Word.ofXYN, byte_fields, ofXNN_fields]

theorem ofBytes_bytes : Word.ofBytes (Word.hiByte w) (Word.loByte w) = w := by
  apply BitVec.eq_of_getLsbD_eq; intro i hi
  simp only [bit_ofBytes, Word.hiByte, Word.loByte, BitVec.getLsbD_extractLsb', Nat.zero_add]
  split
  · simp [*]
  · rw [show 8 + (i - 8) = i by omega]; simp; omega

/-- An unknown outcome of the decoder carries the decoded word itself (R79). -/
theorem decode_unknown_word {v : Word} (h : decode w = .unknown v) : v = w := by
  unfold decode decodeArith decodeKeys decodeMisc at h
  split at h <;> (repeat' split at h) <;> first | exact Decoded.noConfusion h | (injection h with h; exact h.symm)

end Rebuilt

/-! ### The decoder, one lemma per major opcode -/

theorem nibble_cases (b : Nibble) : b = 0#4 ∨ b = 1#4 ∨ b = 2#4 ∨ b = 3#4 ∨ b = 4#4 ∨ b = 5#4 ∨ b = 6#4 ∨ b = 7#4 ∨
    b = 8#4 ∨ b = 9#4 ∨ b = 10#4 ∨ b = 11#4 ∨ b = 12#4 ∨ b = 13#4 ∨ b = 14#4 ∨ b = 15#4 := by
  revert b
  decide

section Decoder

variable {w : Word}

theorem decode_op0 (h : Word.op w = 0#4) :
    decode w = if w = 0x00E0#16 then .instr .cls else if w = 0x00EE#16 then .instr .ret else .instr (.sys (Word.nnn w)) := by
  simp [decode, h]

theorem decode_op1 (h : Word.op w = 1#4) : decode w = .instr (.jp (Word.nnn w)) := by
  simp [decode, h]

theorem decode_op2 (h : Word.op w = 2#4) : decode w = .instr (.call (Word.nnn w)) := by
  simp [decode, h]

theorem decode_op3 (h : Word.op w = 3#4) : decode w = .instr (.seImm (Word.x w) (Word.nn w)) := by
  simp [decode, h]

theorem decode_op4 (h : Word.op w = 4#4) : decode w = .instr (.sneImm (Word.x w) (Word.nn w)) := by
  simp [decode, h]

theorem decode_op5 (h : Word.op w = 5#4) :
    decode w = if Word.n w = 0#4 then .instr (.seReg (Word.x w) (Word.y w)) else .unknown w := by
  simp [decode, h]

theorem decode_op6 (h : Word.op w = 6#4) : decode w = .instr (.ldImm (Word.x w) (Word.nn w)) := by
  simp [decode, h]

theorem decode_op7 (h : Word.op w = 7#4) : decode w = .instr (.addImm (Word.x w) (Word.nn w)) := by
  simp [decode, h]

theorem decode_op8 (h : Word.op w = 8#4) : decode w = decodeArith w := by
  simp [decode, h]

theorem decode_op9 (h : Word.op w = 9#4) :
    decode w = if Word.n w = 0#4 then .instr (.sneReg (Word.x w) (Word.y w)) else .unknown w := by
  simp [decode, h]

theorem decode_op10 (h : Word.op w = 10#4) : decode w = .instr (.ldI (Word.nnn w)) := by
  simp [decode, h]

theorem decode_op11 (h : Word.op w = 11#4) : decode w = .instr (.jpV0 (Word.nnn w)) := by
  simp [decode, h]

theorem decode_op12 (h : Word.op w = 12#4) : decode w = .instr (.rnd (Word.x w) (Word.nn w)) := by
  simp [decode, h]

theorem decode_op13 (h : Word.op w = 13#4) :
    decode w = .instr (.drw (Word.x w) (Word.y w) (Word.n w)) := by
  simp [decode, h]

theorem decode_op14 (h : Word.op w = 14#4) : decode w = decodeKeys w := by
  simp [decode, h]

theorem decode_op15 (h : Word.op w = 15#4) : decode w = decodeMisc w := by
  simp [decode, h]

end Decoder

end Sys2Proof
end

