-- ==== Sys2Proof/Laws/Memory.lean ====
section
/-! SUPPORT. The laws of memory: a read after a write, what a write leaves alone, and that every memory operation keeps
the canonical form. -/

namespace Sys2Proof.Machine

/-! ### Lists of cells -/

theorem readCells_of_rising {d : Byte} {a lo : Nat} {l : List Host.Cell} (h : risingFrom lo l = true) (ha : a < lo) :
    readCells d a l = d := by
  induction l generalizing lo with
  | nil => rfl
  | cons c rest ih =>
    obtain ⟨k, x⟩ := c
    simp only [risingFrom, Bool.and_eq_true, decide_eq_true_eq] at h
    have hne : a ≠ k := by omega
    simp [readCells, hne, ih h.2 (by omega)]

theorem readCells_writeCells_other {d d' : Byte} {a a' : Nat} (b : Byte) (l : List Host.Cell) (h : a' ≠ a) :
    readCells d' a' (writeCells d a b l) = readCells d' a' l := by
  induction l with
  | nil => by_cases hb : b = d <;> simp [writeCells, readCells, hb, h]
  | cons c rest ih =>
    obtain ⟨k, x⟩ := c
    by_cases h1 : a < k
    · by_cases hb : b = d <;> simp [writeCells, readCells, h1, hb, h]
    · by_cases h2 : a = k
      · subst h2
        by_cases hb : b = d <;> simp [writeCells, readCells, hb, h]
      · simp [writeCells, readCells, h1, h2, ih]

theorem readCells_writeCells_same {d : Byte} {a lo : Nat} (b : Byte) {l : List Host.Cell}
    (h : risingFrom lo l = true) : readCells d a (writeCells d a b l) = b := by
  induction l generalizing lo with
  | nil => by_cases hb : b = d <;> simp [writeCells, readCells, hb]
  | cons c rest ih =>
    obtain ⟨k, x⟩ := c
    simp only [risingFrom, Bool.and_eq_true, decide_eq_true_eq] at h
    by_cases h1 : a < k
    · by_cases hb : b = d
      · have hne : a ≠ k := by omega
        simp [writeCells, readCells, h1, hb, hne, readCells_of_rising h.2 (Nat.lt_succ_of_lt h1)]
      · simp [writeCells, readCells, h1, hb]
    · by_cases h2 : a = k
      · subst h2
        by_cases hb : b = d
        · simp [writeCells, hb, readCells_of_rising h.2 (Nat.lt_succ_self a)]
        · simp [writeCells, readCells, hb]
      · simp [writeCells, readCells, h1, h2, ih h.2]

theorem risingFrom_mono {lo lo' : Nat} {l : List Host.Cell} (hlo : lo' ≤ lo) (h : risingFrom lo l = true) :
    risingFrom lo' l = true := by
  cases l with
  | nil => rfl
  | cons c rest =>
    simp only [risingFrom, Bool.and_eq_true, decide_eq_true_eq] at h ⊢
    exact ⟨by omega, h.2⟩

theorem risingFrom_writeCells {d : Byte} {a lo : Nat} (b : Byte) {l : List Host.Cell} (ha : lo ≤ a)
    (h : risingFrom lo l = true) : risingFrom lo (writeCells d a b l) = true := by
  induction l generalizing lo with
  | nil => by_cases hb : b = d <;> simp [writeCells, risingFrom, hb, ha]
  | cons c rest ih =>
    obtain ⟨k, x⟩ := c
    simp only [risingFrom, Bool.and_eq_true, decide_eq_true_eq] at h
    by_cases h1 : a < k
    · by_cases hb : b = d
      · simp [writeCells, risingFrom, h1, hb, h]
      · have hk : a + 1 ≤ k := h1
        simp [writeCells, risingFrom, h1, hb, ha, hk, h.2]
    · by_cases h2 : a = k
      · subst h2
        by_cases hb : b = d
        · simp [writeCells, hb, risingFrom_mono (Nat.le_succ_of_le ha) h.2]
        · simp [writeCells, risingFrom, hb, ha, h.2]
      · simp [writeCells, risingFrom, h1, h2, h.1, ih (by omega) h.2]

theorem mem_writeCells {d : Byte} {a : Nat} {b : Byte} {l : List Host.Cell} {c : Host.Cell}
    (h : c ∈ writeCells d a b l) : c ∈ l ∨ (c = (a, b) ∧ b ≠ d) := by
  induction l with
  | nil =>
    by_cases hb : b = d <;> simp_all [writeCells]
  | cons e rest ih =>
    obtain ⟨k, x⟩ := e
    by_cases h1 : a < k
    · by_cases hb : b = d
      · left; simpa [writeCells, h1, hb] using h
      · simp only [writeCells, h1, hb, if_true, if_false, List.mem_cons] at h
        rcases h with h | h
        · exact .inr ⟨h, hb⟩
        · exact .inl (List.mem_cons.mpr h)
    · by_cases h2 : a = k
      · by_cases hb : b = d
        · simp only [writeCells, h2, hb, if_true] at h
          subst h2
          simp only [Nat.lt_irrefl, if_false] at h
          exact .inl (List.mem_cons_of_mem _ h)
        · subst h2
          simp only [writeCells, Nat.lt_irrefl, hb, if_true, if_false, List.mem_cons] at h
          rcases h with h | h
          · exact .inr ⟨h, hb⟩
          · exact .inl (List.mem_cons_of_mem _ h)
      · simp only [writeCells, h1, h2, if_false, List.mem_cons] at h
        rcases h with h | h
        · exact .inl (List.mem_cons.mpr (.inl h))
        · rcases ih h with h | h
          · exact .inl (List.mem_cons_of_mem _ h)
          · exact .inr h

/-! ### One byte -/

@[simp] theorem Memory.write_font (m : Memory) (a : Nat) (b : Byte) : (m.write a b).font = m.font := by
  unfold Memory.write; split <;> rfl

@[simp] theorem Memory.write_defaultByte (m : Memory) (a : Nat) (b : Byte) (a' : Nat) :
    (m.write a b).defaultByte a' = m.defaultByte a' := by
  simp [Memory.defaultByte]

theorem Memory.read_write_other (m : Memory) {a a' : Nat} (b : Byte) (h : a' ≠ a) :
    (m.write a b).read a' = m.read a' := by
  simp only [Memory.read, Memory.write_defaultByte]
  unfold Memory.write
  split
  · exact readCells_writeCells_other b _ h
  · rfl

theorem Memory.rising_of_wf {m : Memory} (h : m.wf = true) : risingFrom 0 m.cells = true := by
  simp only [Memory.wf, Bool.and_eq_true] at h
  exact h.1

theorem Memory.read_write_same {m : Memory} (hm : m.wf = true) {a : Nat} (b : Byte) (h : a < Config.memSize) :
    (m.write a b).read a = b := by
  simp only [Memory.read, Memory.write_defaultByte]
  simp only [Memory.write, h, if_true]
  exact readCells_writeCells_same b (Memory.rising_of_wf hm)

theorem Memory.wf_write {m : Memory} (hm : m.wf = true) (a : Nat) (b : Byte) : (m.write a b).wf = true := by
  by_cases h : a < Config.memSize
  · simp only [Memory.wf, Bool.and_eq_true, List.all_eq_true] at hm ⊢
    refine ⟨?_, ?_⟩
    · simp only [Memory.write, h, if_true]
      exact risingFrom_writeCells b (Nat.zero_le a) hm.1
    · intro c hc
      simp only [Memory.write, h, if_true] at hc
      rw [Memory.write_defaultByte]
      rcases mem_writeCells hc with hc | ⟨rfl, hb⟩
      · exact hm.2 c hc
      · simp [h, hb]
  · simpa [Memory.write, h] using hm

/-! ### Several bytes -/

@[simp] theorem Memory.writeWhere_font (keep : Nat → Bool) (bs : List Byte) (m : Memory) (a : Nat) :
    (m.writeWhere keep a bs).font = m.font := by
  induction bs generalizing m a with
  | nil => rfl
  | cons b bs ih =>
    simp only [Memory.writeWhere, ih]
    split <;> simp

@[simp] theorem Memory.writeBytes_font (bs : List Byte) (m : Memory) (a : Nat) :
    (m.writeBytes a bs).font = m.font := Memory.writeWhere_font _ bs m a

theorem Memory.wf_writeWhere (keep : Nat → Bool) (bs : List Byte) {m : Memory} (hm : m.wf = true) (a : Nat) :
    (m.writeWhere keep a bs).wf = true := by
  induction bs generalizing m a with
  | nil => exact hm
  | cons b bs ih =>
    simp only [Memory.writeWhere]
    split
    · exact ih (Memory.wf_write hm a b) _
    · exact ih hm _

theorem Memory.wf_writeBytes (bs : List Byte) {m : Memory} (hm : m.wf = true) (a : Nat) :
    (m.writeBytes a bs).wf = true := Memory.wf_writeWhere _ bs hm a

theorem Memory.read_writeWhere_outside (keep : Nat → Bool) (bs : List Byte) (m : Memory) {a a' : Nat}
    (h : a' < a ∨ a + bs.length ≤ a') : (m.writeWhere keep a bs).read a' = m.read a' := by
  induction bs generalizing m a with
  | nil => rfl
  | cons b bs ih =>
    simp only [List.length_cons] at h
    simp only [Memory.writeWhere]
    rw [ih _ (by omega)]
    split
    · exact Memory.read_write_other m b (by omega)
    · rfl

theorem Memory.read_writeBytes_outside (bs : List Byte) (m : Memory) {a a' : Nat}
    (h : a' < a ∨ a + bs.length ≤ a') : (m.writeBytes a bs).read a' = m.read a' :=
  Memory.read_writeWhere_outside _ bs m h

/-- The byte at `a + k` after storing `bs` from `a` is the `k`-th of `bs`. -/
theorem Memory.read_writeBytes_inside (bs : List Byte) {m : Memory} (hm : m.wf = true) {a k : Nat} (hk : k < bs.length)
    (h : a + bs.length ≤ Config.memSize) : (m.writeBytes a bs).read (a + k) = bs[k] := by
  induction bs generalizing m a k with
  | nil => simp at hk
  | cons b bs ih =>
    have hw : m.writeBytes a (b :: bs) = (m.write a b).writeBytes (a + 1) bs := by
      simp [Memory.writeBytes, Memory.writeWhere]
    rw [hw]
    simp only [List.length_cons] at h hk
    cases k with
    | zero =>
      rw [Memory.read_writeBytes_outside _ _ (by omega)]
      exact Memory.read_write_same hm b (by omega)
    | succ k =>
      have := ih (Memory.wf_write hm a b) (a := a + 1) (k := k) (by omega) (by omega)
      rw [show a + (k + 1) = a + 1 + k by omega, this]
      rfl

theorem Memory.readBytes_length (m : Memory) (base count : Nat) : (m.readBytes base count).length = count := by
  simp [Memory.readBytes]

/-! ### Bounds -/

/-- R51, R237: no address out of bounds exactly when the block ends within memory; else the first is at 4096, or at the
base when that is above. -/
theorem firstOutOfBounds_eq (base count : Nat) :
    firstOutOfBounds base count =
      if count = 0 ∨ base + count ≤ Config.memSize then none else some (max base Config.memSize) := by
  unfold firstOutOfBounds
  split
  · rename_i h
    rw [List.find?_eq_none]
    intro a ha
    simp only [List.mem_map, List.mem_range] at ha
    obtain ⟨k, hk, rfl⟩ := ha
    simp only [Config.memSize] at h ⊢
    simp only [decide_eq_true_eq]; omega
  · rename_i h
    simp only [not_or] at h
    rw [List.find?_eq_some_iff_append]
    refine ⟨by simp, (List.range (max base Config.memSize - base)).map (base + ·),
      (List.range (count - (max base Config.memSize - base) - 1)).map
        (fun k => max base Config.memSize + (k + 1)), ?_, ?_⟩
    · have hc : count = (max base Config.memSize - base) + (1 + (count - (max base Config.memSize - base) - 1)) := by
        simp only [Config.memSize] at h ⊢; omega
      conv_lhs => rw [hc]
      rw [List.range_add, List.map_append, Nat.add_comm 1, List.range_succ_eq_map]
      simp only [List.map_map, List.map_cons, Function.comp_def]
      congr 1
      have e : ∀ k, base + (max base Config.memSize - base + k) = max base Config.memSize + k := by intro k; omega
      simp [e]
    · intro a ha
      simp only [List.mem_map, List.mem_range] at ha
      obtain ⟨k, hk, rfl⟩ := ha
      simp only [Bool.not_eq_true', decide_eq_false_iff_not, Config.memSize] at hk ⊢
      omega

theorem firstOutOfBounds_none {base count : Nat} (h : base + count ≤ Config.memSize) :
    firstOutOfBounds base count = none := by
  rw [firstOutOfBounds_eq]; simp [h]

theorem firstOutOfBounds_zero (base : Nat) : firstOutOfBounds base 0 = none := rfl

end Sys2Proof.Machine
end

