-- ==== Sys2Proof/Laws/State.lean ====
section
/-! SUPPORT. The small lemmas of the state: what each named update leaves in each field, and what registers and keys
read after it. -/

namespace Sys2Proof.Machine

section Fields

variable (s : State)

/-! ### `setReg` -/

@[simp] theorem State.setReg_mem (x : RegName) (b : Byte) : (s.setReg x b).mem = s.mem := rfl
@[simp] theorem State.setReg_v (x : RegName) (b : Byte) : (s.setReg x b).v = s.v.set x.toNat b x.isLt := rfl
@[simp] theorem State.setReg_i (x : RegName) (b : Byte) : (s.setReg x b).i = s.i := rfl
@[simp] theorem State.setReg_pc (x : RegName) (b : Byte) : (s.setReg x b).pc = s.pc := rfl
@[simp] theorem State.setReg_stack (x : RegName) (b : Byte) : (s.setReg x b).stack = s.stack := rfl
@[simp] theorem State.setReg_dt (x : RegName) (b : Byte) : (s.setReg x b).dt = s.dt := rfl
@[simp] theorem State.setReg_st (x : RegName) (b : Byte) : (s.setReg x b).st = s.st := rfl
@[simp] theorem State.setReg_keys (x : RegName) (b : Byte) : (s.setReg x b).keys = s.keys := rfl
@[simp] theorem State.setReg_fb (x : RegName) (b : Byte) : (s.setReg x b).fb = s.fb := rfl
@[simp] theorem State.setReg_quirk (x : RegName) (b : Byte) : (s.setReg x b).quirk = s.quirk := rfl
@[simp] theorem State.setReg_halted (x : RegName) (b : Byte) : (s.setReg x b).halted = s.halted := rfl
@[simp] theorem State.setReg_outcome (x : RegName) (b : Byte) : (s.setReg x b).outcome = s.outcome := rfl
@[simp] theorem State.setReg_draws (x : RegName) (b : Byte) : (s.setReg x b).draws = s.draws := rfl
@[simp] theorem State.setReg_agenda (x : RegName) (b : Byte) : (s.setReg x b).agenda = s.agenda := rfl

/-! ### `setFlag` -/

@[simp] theorem State.setFlag_mem (b : Byte) : (s.setFlag b).mem = s.mem := rfl
@[simp] theorem State.setFlag_v (b : Byte) : (s.setFlag b).v = s.v.set 15 b (by decide) := rfl
@[simp] theorem State.setFlag_i (b : Byte) : (s.setFlag b).i = s.i := rfl
@[simp] theorem State.setFlag_pc (b : Byte) : (s.setFlag b).pc = s.pc := rfl
@[simp] theorem State.setFlag_stack (b : Byte) : (s.setFlag b).stack = s.stack := rfl
@[simp] theorem State.setFlag_dt (b : Byte) : (s.setFlag b).dt = s.dt := rfl
@[simp] theorem State.setFlag_st (b : Byte) : (s.setFlag b).st = s.st := rfl
@[simp] theorem State.setFlag_keys (b : Byte) : (s.setFlag b).keys = s.keys := rfl
@[simp] theorem State.setFlag_fb (b : Byte) : (s.setFlag b).fb = s.fb := rfl
@[simp] theorem State.setFlag_quirk (b : Byte) : (s.setFlag b).quirk = s.quirk := rfl
@[simp] theorem State.setFlag_halted (b : Byte) : (s.setFlag b).halted = s.halted := rfl
@[simp] theorem State.setFlag_outcome (b : Byte) : (s.setFlag b).outcome = s.outcome := rfl
@[simp] theorem State.setFlag_draws (b : Byte) : (s.setFlag b).draws = s.draws := rfl
@[simp] theorem State.setFlag_agenda (b : Byte) : (s.setFlag b).agenda = s.agenda := rfl

/-! ### `setPC` -/

@[simp] theorem State.setPC_mem (a : Word) : (s.setPC a).mem = s.mem := rfl
@[simp] theorem State.setPC_v (a : Word) : (s.setPC a).v = s.v := rfl
@[simp] theorem State.setPC_i (a : Word) : (s.setPC a).i = s.i := rfl
@[simp] theorem State.setPC_pc (a : Word) : (s.setPC a).pc = a := rfl
@[simp] theorem State.setPC_stack (a : Word) : (s.setPC a).stack = s.stack := rfl
@[simp] theorem State.setPC_dt (a : Word) : (s.setPC a).dt = s.dt := rfl
@[simp] theorem State.setPC_st (a : Word) : (s.setPC a).st = s.st := rfl
@[simp] theorem State.setPC_keys (a : Word) : (s.setPC a).keys = s.keys := rfl
@[simp] theorem State.setPC_fb (a : Word) : (s.setPC a).fb = s.fb := rfl
@[simp] theorem State.setPC_quirk (a : Word) : (s.setPC a).quirk = s.quirk := rfl
@[simp] theorem State.setPC_halted (a : Word) : (s.setPC a).halted = s.halted := rfl
@[simp] theorem State.setPC_outcome (a : Word) : (s.setPC a).outcome = s.outcome := rfl
@[simp] theorem State.setPC_draws (a : Word) : (s.setPC a).draws = s.draws := rfl
@[simp] theorem State.setPC_agenda (a : Word) : (s.setPC a).agenda = s.agenda := rfl

/-! ### `setIndex` -/

@[simp] theorem State.setIndex_mem (a : Word) : (s.setIndex a).mem = s.mem := rfl
@[simp] theorem State.setIndex_v (a : Word) : (s.setIndex a).v = s.v := rfl
@[simp] theorem State.setIndex_i (a : Word) : (s.setIndex a).i = a := rfl
@[simp] theorem State.setIndex_pc (a : Word) : (s.setIndex a).pc = s.pc := rfl
@[simp] theorem State.setIndex_stack (a : Word) : (s.setIndex a).stack = s.stack := rfl
@[simp] theorem State.setIndex_dt (a : Word) : (s.setIndex a).dt = s.dt := rfl
@[simp] theorem State.setIndex_st (a : Word) : (s.setIndex a).st = s.st := rfl
@[simp] theorem State.setIndex_keys (a : Word) : (s.setIndex a).keys = s.keys := rfl
@[simp] theorem State.setIndex_fb (a : Word) : (s.setIndex a).fb = s.fb := rfl
@[simp] theorem State.setIndex_quirk (a : Word) : (s.setIndex a).quirk = s.quirk := rfl
@[simp] theorem State.setIndex_halted (a : Word) : (s.setIndex a).halted = s.halted := rfl
@[simp] theorem State.setIndex_outcome (a : Word) : (s.setIndex a).outcome = s.outcome := rfl
@[simp] theorem State.setIndex_draws (a : Word) : (s.setIndex a).draws = s.draws := rfl
@[simp] theorem State.setIndex_agenda (a : Word) : (s.setIndex a).agenda = s.agenda := rfl

/-! ### `setDelay` -/

@[simp] theorem State.setDelay_mem (b : Byte) : (s.setDelay b).mem = s.mem := rfl
@[simp] theorem State.setDelay_v (b : Byte) : (s.setDelay b).v = s.v := rfl
@[simp] theorem State.setDelay_i (b : Byte) : (s.setDelay b).i = s.i := rfl
@[simp] theorem State.setDelay_pc (b : Byte) : (s.setDelay b).pc = s.pc := rfl
@[simp] theorem State.setDelay_stack (b : Byte) : (s.setDelay b).stack = s.stack := rfl
@[simp] theorem State.setDelay_dt (b : Byte) : (s.setDelay b).dt = b := rfl
@[simp] theorem State.setDelay_st (b : Byte) : (s.setDelay b).st = s.st := rfl
@[simp] theorem State.setDelay_keys (b : Byte) : (s.setDelay b).keys = s.keys := rfl
@[simp] theorem State.setDelay_fb (b : Byte) : (s.setDelay b).fb = s.fb := rfl
@[simp] theorem State.setDelay_quirk (b : Byte) : (s.setDelay b).quirk = s.quirk := rfl
@[simp] theorem State.setDelay_halted (b : Byte) : (s.setDelay b).halted = s.halted := rfl
@[simp] theorem State.setDelay_outcome (b : Byte) : (s.setDelay b).outcome = s.outcome := rfl
@[simp] theorem State.setDelay_draws (b : Byte) : (s.setDelay b).draws = s.draws := rfl
@[simp] theorem State.setDelay_agenda (b : Byte) : (s.setDelay b).agenda = s.agenda := rfl

/-! ### `setSound` -/

@[simp] theorem State.setSound_mem (b : Byte) : (s.setSound b).mem = s.mem := rfl
@[simp] theorem State.setSound_v (b : Byte) : (s.setSound b).v = s.v := rfl
@[simp] theorem State.setSound_i (b : Byte) : (s.setSound b).i = s.i := rfl
@[simp] theorem State.setSound_pc (b : Byte) : (s.setSound b).pc = s.pc := rfl
@[simp] theorem State.setSound_stack (b : Byte) : (s.setSound b).stack = s.stack := rfl
@[simp] theorem State.setSound_dt (b : Byte) : (s.setSound b).dt = s.dt := rfl
@[simp] theorem State.setSound_st (b : Byte) : (s.setSound b).st = b := rfl
@[simp] theorem State.setSound_keys (b : Byte) : (s.setSound b).keys = s.keys := rfl
@[simp] theorem State.setSound_fb (b : Byte) : (s.setSound b).fb = s.fb := rfl
@[simp] theorem State.setSound_quirk (b : Byte) : (s.setSound b).quirk = s.quirk := rfl
@[simp] theorem State.setSound_halted (b : Byte) : (s.setSound b).halted = s.halted := rfl
@[simp] theorem State.setSound_outcome (b : Byte) : (s.setSound b).outcome = s.outcome := rfl
@[simp] theorem State.setSound_draws (b : Byte) : (s.setSound b).draws = s.draws := rfl
@[simp] theorem State.setSound_agenda (b : Byte) : (s.setSound b).agenda = s.agenda := rfl

/-! ### `setMem` -/

@[simp] theorem State.setMem_mem (m : Memory) : (s.setMem m).mem = m := rfl
@[simp] theorem State.setMem_v (m : Memory) : (s.setMem m).v = s.v := rfl
@[simp] theorem State.setMem_i (m : Memory) : (s.setMem m).i = s.i := rfl
@[simp] theorem State.setMem_pc (m : Memory) : (s.setMem m).pc = s.pc := rfl
@[simp] theorem State.setMem_stack (m : Memory) : (s.setMem m).stack = s.stack := rfl
@[simp] theorem State.setMem_dt (m : Memory) : (s.setMem m).dt = s.dt := rfl
@[simp] theorem State.setMem_st (m : Memory) : (s.setMem m).st = s.st := rfl
@[simp] theorem State.setMem_keys (m : Memory) : (s.setMem m).keys = s.keys := rfl
@[simp] theorem State.setMem_fb (m : Memory) : (s.setMem m).fb = s.fb := rfl
@[simp] theorem State.setMem_quirk (m : Memory) : (s.setMem m).quirk = s.quirk := rfl
@[simp] theorem State.setMem_halted (m : Memory) : (s.setMem m).halted = s.halted := rfl
@[simp] theorem State.setMem_outcome (m : Memory) : (s.setMem m).outcome = s.outcome := rfl
@[simp] theorem State.setMem_draws (m : Memory) : (s.setMem m).draws = s.draws := rfl
@[simp] theorem State.setMem_agenda (m : Memory) : (s.setMem m).agenda = s.agenda := rfl

/-! ### `setFrame` -/

@[simp] theorem State.setFrame_mem (f : Frame) : (s.setFrame f).mem = s.mem := rfl
@[simp] theorem State.setFrame_v (f : Frame) : (s.setFrame f).v = s.v := rfl
@[simp] theorem State.setFrame_i (f : Frame) : (s.setFrame f).i = s.i := rfl
@[simp] theorem State.setFrame_pc (f : Frame) : (s.setFrame f).pc = s.pc := rfl
@[simp] theorem State.setFrame_stack (f : Frame) : (s.setFrame f).stack = s.stack := rfl
@[simp] theorem State.setFrame_dt (f : Frame) : (s.setFrame f).dt = s.dt := rfl
@[simp] theorem State.setFrame_st (f : Frame) : (s.setFrame f).st = s.st := rfl
@[simp] theorem State.setFrame_keys (f : Frame) : (s.setFrame f).keys = s.keys := rfl
@[simp] theorem State.setFrame_fb (f : Frame) : (s.setFrame f).fb = f := rfl
@[simp] theorem State.setFrame_quirk (f : Frame) : (s.setFrame f).quirk = s.quirk := rfl
@[simp] theorem State.setFrame_halted (f : Frame) : (s.setFrame f).halted = s.halted := rfl
@[simp] theorem State.setFrame_outcome (f : Frame) : (s.setFrame f).outcome = s.outcome := rfl
@[simp] theorem State.setFrame_draws (f : Frame) : (s.setFrame f).draws = s.draws := rfl
@[simp] theorem State.setFrame_agenda (f : Frame) : (s.setFrame f).agenda = s.agenda := rfl

/-! ### `push` -/

@[simp] theorem State.push_mem (a : Word) : (s.push a).mem = s.mem := rfl
@[simp] theorem State.push_v (a : Word) : (s.push a).v = s.v := rfl
@[simp] theorem State.push_i (a : Word) : (s.push a).i = s.i := rfl
@[simp] theorem State.push_pc (a : Word) : (s.push a).pc = s.pc := rfl
@[simp] theorem State.push_stack (a : Word) : (s.push a).stack = s.stack ++ [a] := rfl
@[simp] theorem State.push_dt (a : Word) : (s.push a).dt = s.dt := rfl
@[simp] theorem State.push_st (a : Word) : (s.push a).st = s.st := rfl
@[simp] theorem State.push_keys (a : Word) : (s.push a).keys = s.keys := rfl
@[simp] theorem State.push_fb (a : Word) : (s.push a).fb = s.fb := rfl
@[simp] theorem State.push_quirk (a : Word) : (s.push a).quirk = s.quirk := rfl
@[simp] theorem State.push_halted (a : Word) : (s.push a).halted = s.halted := rfl
@[simp] theorem State.push_outcome (a : Word) : (s.push a).outcome = s.outcome := rfl
@[simp] theorem State.push_draws (a : Word) : (s.push a).draws = s.draws := rfl
@[simp] theorem State.push_agenda (a : Word) : (s.push a).agenda = s.agenda := rfl

/-! ### `dropTop` -/

@[simp] theorem State.dropTop_mem : (s.dropTop).mem = s.mem := rfl
@[simp] theorem State.dropTop_v : (s.dropTop).v = s.v := rfl
@[simp] theorem State.dropTop_i : (s.dropTop).i = s.i := rfl
@[simp] theorem State.dropTop_pc : (s.dropTop).pc = s.pc := rfl
@[simp] theorem State.dropTop_stack : (s.dropTop).stack = s.stack.dropLast := rfl
@[simp] theorem State.dropTop_dt : (s.dropTop).dt = s.dt := rfl
@[simp] theorem State.dropTop_st : (s.dropTop).st = s.st := rfl
@[simp] theorem State.dropTop_keys : (s.dropTop).keys = s.keys := rfl
@[simp] theorem State.dropTop_fb : (s.dropTop).fb = s.fb := rfl
@[simp] theorem State.dropTop_quirk : (s.dropTop).quirk = s.quirk := rfl
@[simp] theorem State.dropTop_halted : (s.dropTop).halted = s.halted := rfl
@[simp] theorem State.dropTop_outcome : (s.dropTop).outcome = s.outcome := rfl
@[simp] theorem State.dropTop_draws : (s.dropTop).draws = s.draws := rfl
@[simp] theorem State.dropTop_agenda : (s.dropTop).agenda = s.agenda := rfl

/-! ### `setRegs` -/

@[simp] theorem State.setRegs_mem (w : Vector Byte 16) : (s.setRegs w).mem = s.mem := rfl
@[simp] theorem State.setRegs_v (w : Vector Byte 16) : (s.setRegs w).v = w := rfl
@[simp] theorem State.setRegs_i (w : Vector Byte 16) : (s.setRegs w).i = s.i := rfl
@[simp] theorem State.setRegs_pc (w : Vector Byte 16) : (s.setRegs w).pc = s.pc := rfl
@[simp] theorem State.setRegs_stack (w : Vector Byte 16) : (s.setRegs w).stack = s.stack := rfl
@[simp] theorem State.setRegs_dt (w : Vector Byte 16) : (s.setRegs w).dt = s.dt := rfl
@[simp] theorem State.setRegs_st (w : Vector Byte 16) : (s.setRegs w).st = s.st := rfl
@[simp] theorem State.setRegs_keys (w : Vector Byte 16) : (s.setRegs w).keys = s.keys := rfl
@[simp] theorem State.setRegs_fb (w : Vector Byte 16) : (s.setRegs w).fb = s.fb := rfl
@[simp] theorem State.setRegs_quirk (w : Vector Byte 16) : (s.setRegs w).quirk = s.quirk := rfl
@[simp] theorem State.setRegs_halted (w : Vector Byte 16) : (s.setRegs w).halted = s.halted := rfl
@[simp] theorem State.setRegs_outcome (w : Vector Byte 16) : (s.setRegs w).outcome = s.outcome := rfl
@[simp] theorem State.setRegs_draws (w : Vector Byte 16) : (s.setRegs w).draws = s.draws := rfl
@[simp] theorem State.setRegs_agenda (w : Vector Byte 16) : (s.setRegs w).agenda = s.agenda := rfl

/-! ### `countDraw` -/

@[simp] theorem State.countDraw_mem : (s.countDraw).mem = s.mem := rfl
@[simp] theorem State.countDraw_v : (s.countDraw).v = s.v := rfl
@[simp] theorem State.countDraw_i : (s.countDraw).i = s.i := rfl
@[simp] theorem State.countDraw_pc : (s.countDraw).pc = s.pc := rfl
@[simp] theorem State.countDraw_stack : (s.countDraw).stack = s.stack := rfl
@[simp] theorem State.countDraw_dt : (s.countDraw).dt = s.dt := rfl
@[simp] theorem State.countDraw_st : (s.countDraw).st = s.st := rfl
@[simp] theorem State.countDraw_keys : (s.countDraw).keys = s.keys := rfl
@[simp] theorem State.countDraw_fb : (s.countDraw).fb = s.fb := rfl
@[simp] theorem State.countDraw_quirk : (s.countDraw).quirk = s.quirk := rfl
@[simp] theorem State.countDraw_halted : (s.countDraw).halted = s.halted := rfl
@[simp] theorem State.countDraw_outcome : (s.countDraw).outcome = s.outcome := rfl
@[simp] theorem State.countDraw_draws : (s.countDraw).draws = s.draws + 1 := rfl
@[simp] theorem State.countDraw_agenda : (s.countDraw).agenda = s.agenda := rfl

/-! ### `postFetch` -/

@[simp] theorem State.postFetch_mem : (s.postFetch).mem = s.mem := rfl
@[simp] theorem State.postFetch_v : (s.postFetch).v = s.v := rfl
@[simp] theorem State.postFetch_i : (s.postFetch).i = s.i := rfl
@[simp] theorem State.postFetch_pc : (s.postFetch).pc = s.pc + 2 := rfl
@[simp] theorem State.postFetch_stack : (s.postFetch).stack = s.stack := rfl
@[simp] theorem State.postFetch_dt : (s.postFetch).dt = s.dt := rfl
@[simp] theorem State.postFetch_st : (s.postFetch).st = s.st := rfl
@[simp] theorem State.postFetch_keys : (s.postFetch).keys = s.keys := rfl
@[simp] theorem State.postFetch_fb : (s.postFetch).fb = s.fb := rfl
@[simp] theorem State.postFetch_quirk : (s.postFetch).quirk = s.quirk := rfl
@[simp] theorem State.postFetch_halted : (s.postFetch).halted = s.halted := rfl
@[simp] theorem State.postFetch_outcome : (s.postFetch).outcome = s.outcome := rfl
@[simp] theorem State.postFetch_draws : (s.postFetch).draws = s.draws := rfl
@[simp] theorem State.postFetch_agenda : (s.postFetch).agenda = s.agenda := rfl

/-! ### `setKey` -/

@[simp] theorem State.setKey_mem (k : Nibble) (p : Bool) : (setKey k p s).mem = s.mem := rfl
@[simp] theorem State.setKey_v (k : Nibble) (p : Bool) : (setKey k p s).v = s.v := rfl
@[simp] theorem State.setKey_i (k : Nibble) (p : Bool) : (setKey k p s).i = s.i := rfl
@[simp] theorem State.setKey_pc (k : Nibble) (p : Bool) : (setKey k p s).pc = s.pc := rfl
@[simp] theorem State.setKey_stack (k : Nibble) (p : Bool) : (setKey k p s).stack = s.stack := rfl
@[simp] theorem State.setKey_dt (k : Nibble) (p : Bool) : (setKey k p s).dt = s.dt := rfl
@[simp] theorem State.setKey_st (k : Nibble) (p : Bool) : (setKey k p s).st = s.st := rfl
@[simp] theorem State.setKey_keys (k : Nibble) (p : Bool) : (setKey k p s).keys = s.keys.set k.toNat p k.isLt := rfl
@[simp] theorem State.setKey_fb (k : Nibble) (p : Bool) : (setKey k p s).fb = s.fb := rfl
@[simp] theorem State.setKey_quirk (k : Nibble) (p : Bool) : (setKey k p s).quirk = s.quirk := rfl
@[simp] theorem State.setKey_halted (k : Nibble) (p : Bool) : (setKey k p s).halted = s.halted := rfl
@[simp] theorem State.setKey_outcome (k : Nibble) (p : Bool) : (setKey k p s).outcome = s.outcome := rfl
@[simp] theorem State.setKey_draws (k : Nibble) (p : Bool) : (setKey k p s).draws = s.draws := rfl
@[simp] theorem State.setKey_agenda (k : Nibble) (p : Bool) : (setKey k p s).agenda = s.agenda := rfl

/-! ### `tick` -/

@[simp] theorem State.tick_mem : (tick s).mem = s.mem := rfl
@[simp] theorem State.tick_v : (tick s).v = s.v := rfl
@[simp] theorem State.tick_i : (tick s).i = s.i := rfl
@[simp] theorem State.tick_pc : (tick s).pc = s.pc := rfl
@[simp] theorem State.tick_stack : (tick s).stack = s.stack := rfl
@[simp] theorem State.tick_dt : (tick s).dt = countDown s.dt := rfl
@[simp] theorem State.tick_st : (tick s).st = countDown s.st := rfl
@[simp] theorem State.tick_keys : (tick s).keys = s.keys := rfl
@[simp] theorem State.tick_fb : (tick s).fb = s.fb := rfl
@[simp] theorem State.tick_quirk : (tick s).quirk = s.quirk := rfl
@[simp] theorem State.tick_halted : (tick s).halted = s.halted := rfl
@[simp] theorem State.tick_outcome : (tick s).outcome = s.outcome := rfl
@[simp] theorem State.tick_draws : (tick s).draws = s.draws := rfl
@[simp] theorem State.tick_agenda : (tick s).agenda = s.agenda := rfl

/-! ### `setOutcome` -/

@[simp] theorem State.setOutcome_mem (o : StepOutcome) : (s.setOutcome o).mem = s.mem := rfl
@[simp] theorem State.setOutcome_v (o : StepOutcome) : (s.setOutcome o).v = s.v := rfl
@[simp] theorem State.setOutcome_i (o : StepOutcome) : (s.setOutcome o).i = s.i := rfl
@[simp] theorem State.setOutcome_pc (o : StepOutcome) : (s.setOutcome o).pc = s.pc := rfl
@[simp] theorem State.setOutcome_stack (o : StepOutcome) : (s.setOutcome o).stack = s.stack := rfl
@[simp] theorem State.setOutcome_dt (o : StepOutcome) : (s.setOutcome o).dt = s.dt := rfl
@[simp] theorem State.setOutcome_st (o : StepOutcome) : (s.setOutcome o).st = s.st := rfl
@[simp] theorem State.setOutcome_keys (o : StepOutcome) : (s.setOutcome o).keys = s.keys := rfl
@[simp] theorem State.setOutcome_fb (o : StepOutcome) : (s.setOutcome o).fb = s.fb := rfl
@[simp] theorem State.setOutcome_quirk (o : StepOutcome) : (s.setOutcome o).quirk = s.quirk := rfl
@[simp] theorem State.setOutcome_halted (o : StepOutcome) : (s.setOutcome o).halted = s.halted := rfl
@[simp] theorem State.setOutcome_outcome (o : StepOutcome) : (s.setOutcome o).outcome = some o := rfl
@[simp] theorem State.setOutcome_draws (o : StepOutcome) : (s.setOutcome o).draws = s.draws := rfl
@[simp] theorem State.setOutcome_agenda (o : StepOutcome) : (s.setOutcome o).agenda = s.agenda := rfl

/-! ### `setHalted` -/

@[simp] theorem State.setHalted_mem (f : Fatal) : (s.setHalted f).mem = s.mem := rfl
@[simp] theorem State.setHalted_v (f : Fatal) : (s.setHalted f).v = s.v := rfl
@[simp] theorem State.setHalted_i (f : Fatal) : (s.setHalted f).i = s.i := rfl
@[simp] theorem State.setHalted_pc (f : Fatal) : (s.setHalted f).pc = s.pc := rfl
@[simp] theorem State.setHalted_stack (f : Fatal) : (s.setHalted f).stack = s.stack := rfl
@[simp] theorem State.setHalted_dt (f : Fatal) : (s.setHalted f).dt = s.dt := rfl
@[simp] theorem State.setHalted_st (f : Fatal) : (s.setHalted f).st = s.st := rfl
@[simp] theorem State.setHalted_keys (f : Fatal) : (s.setHalted f).keys = s.keys := rfl
@[simp] theorem State.setHalted_fb (f : Fatal) : (s.setHalted f).fb = s.fb := rfl
@[simp] theorem State.setHalted_quirk (f : Fatal) : (s.setHalted f).quirk = s.quirk := rfl
@[simp] theorem State.setHalted_halted (f : Fatal) : (s.setHalted f).halted = some f := rfl
@[simp] theorem State.setHalted_outcome (f : Fatal) : (s.setHalted f).outcome = s.outcome := rfl
@[simp] theorem State.setHalted_draws (f : Fatal) : (s.setHalted f).draws = s.draws := rfl
@[simp] theorem State.setHalted_agenda (f : Fatal) : (s.setHalted f).agenda = s.agenda := rfl

/-! ### `setAgenda` -/

@[simp] theorem State.setAgenda_mem (l : List HostOp) : (s.setAgenda l).mem = s.mem := rfl
@[simp] theorem State.setAgenda_v (l : List HostOp) : (s.setAgenda l).v = s.v := rfl
@[simp] theorem State.setAgenda_i (l : List HostOp) : (s.setAgenda l).i = s.i := rfl
@[simp] theorem State.setAgenda_pc (l : List HostOp) : (s.setAgenda l).pc = s.pc := rfl
@[simp] theorem State.setAgenda_stack (l : List HostOp) : (s.setAgenda l).stack = s.stack := rfl
@[simp] theorem State.setAgenda_dt (l : List HostOp) : (s.setAgenda l).dt = s.dt := rfl
@[simp] theorem State.setAgenda_st (l : List HostOp) : (s.setAgenda l).st = s.st := rfl
@[simp] theorem State.setAgenda_keys (l : List HostOp) : (s.setAgenda l).keys = s.keys := rfl
@[simp] theorem State.setAgenda_fb (l : List HostOp) : (s.setAgenda l).fb = s.fb := rfl
@[simp] theorem State.setAgenda_quirk (l : List HostOp) : (s.setAgenda l).quirk = s.quirk := rfl
@[simp] theorem State.setAgenda_halted (l : List HostOp) : (s.setAgenda l).halted = s.halted := rfl
@[simp] theorem State.setAgenda_outcome (l : List HostOp) : (s.setAgenda l).outcome = s.outcome := rfl
@[simp] theorem State.setAgenda_draws (l : List HostOp) : (s.setAgenda l).draws = s.draws := rfl
@[simp] theorem State.setAgenda_agenda (l : List HostOp) : (s.setAgenda l).agenda = l := rfl

end Fields

/-! ### Registers and keys -/

section Reads

variable (s : State)

theorem toNat_vF : vF.toNat = 15 := rfl

@[simp] theorem reg_setReg_same (x : RegName) (b : Byte) : (s.setReg x b).reg x = b := by
  simp [State.reg, State.setReg]

theorem reg_setReg_other {x r : RegName} (h : r ≠ x) (b : Byte) : (s.setReg x b).reg r = s.reg r := by
  have : x.toNat ≠ r.toNat := fun e => h (BitVec.eq_of_toNat_eq e.symm)
  simp [State.reg, State.setReg, Vector.getElem_set_ne _ _ this]

theorem reg_setReg (x r : RegName) (b : Byte) : (s.setReg x b).reg r = if r = x then b else s.reg r := by
  by_cases h : r = x
  · subst h; simp
  · simp [h, reg_setReg_other s h]

@[simp] theorem reg_setFlag_vF (b : Byte) : (s.setFlag b).reg vF = b := reg_setReg_same s vF b

theorem reg_setFlag_other {r : RegName} (h : r ≠ vF) (b : Byte) : (s.setFlag b).reg r = s.reg r :=
  reg_setReg_other s h b

theorem reg_setFlag (r : RegName) (b : Byte) : (s.setFlag b).reg r = if r = vF then b else s.reg r :=
  reg_setReg s vF r b

theorem key_setKey (k j : Nibble) (p : Bool) : (setKey k p s).key j = if j = k then p else s.key j := by
  by_cases h : j = k
  · subst h; simp [State.key, setKey]
  · have : k.toNat ≠ j.toNat := fun e => h (BitVec.eq_of_toNat_eq e.symm)
    simp [State.key, setKey, h, Vector.getElem_set_ne _ _ this]

@[simp] theorem key_setReg (x : RegName) (b : Byte) (j : Nibble) : (s.setReg x b).key j = s.key j := rfl
@[simp] theorem key_setFlag (b : Byte) (j : Nibble) : (s.setFlag b).key j = s.key j := rfl
@[simp] theorem reg_setPC (a : Word) (r : RegName) : (s.setPC a).reg r = s.reg r := rfl
@[simp] theorem key_setPC (a : Word) (j : Nibble) : (s.setPC a).key j = s.key j := rfl
@[simp] theorem reg_setIndex (a : Word) (r : RegName) : (s.setIndex a).reg r = s.reg r := rfl
@[simp] theorem key_setIndex (a : Word) (j : Nibble) : (s.setIndex a).key j = s.key j := rfl
@[simp] theorem reg_setDelay (b : Byte) (r : RegName) : (s.setDelay b).reg r = s.reg r := rfl
@[simp] theorem key_setDelay (b : Byte) (j : Nibble) : (s.setDelay b).key j = s.key j := rfl
@[simp] theorem reg_setSound (b : Byte) (r : RegName) : (s.setSound b).reg r = s.reg r := rfl
@[simp] theorem key_setSound (b : Byte) (j : Nibble) : (s.setSound b).key j = s.key j := rfl
@[simp] theorem reg_setMem (m : Memory) (r : RegName) : (s.setMem m).reg r = s.reg r := rfl
@[simp] theorem key_setMem (m : Memory) (j : Nibble) : (s.setMem m).key j = s.key j := rfl
@[simp] theorem reg_setFrame (f : Frame) (r : RegName) : (s.setFrame f).reg r = s.reg r := rfl
@[simp] theorem key_setFrame (f : Frame) (j : Nibble) : (s.setFrame f).key j = s.key j := rfl
@[simp] theorem reg_push (a : Word) (r : RegName) : (s.push a).reg r = s.reg r := rfl
@[simp] theorem key_push (a : Word) (j : Nibble) : (s.push a).key j = s.key j := rfl
@[simp] theorem reg_dropTop (r : RegName) : (s.dropTop).reg r = s.reg r := rfl
@[simp] theorem key_dropTop (j : Nibble) : (s.dropTop).key j = s.key j := rfl
@[simp] theorem key_setRegs (w : Vector Byte 16) (j : Nibble) : (s.setRegs w).key j = s.key j := rfl
@[simp] theorem reg_countDraw (r : RegName) : (s.countDraw).reg r = s.reg r := rfl
@[simp] theorem key_countDraw (j : Nibble) : (s.countDraw).key j = s.key j := rfl
@[simp] theorem reg_postFetch (r : RegName) : (s.postFetch).reg r = s.reg r := rfl
@[simp] theorem key_postFetch (j : Nibble) : (s.postFetch).key j = s.key j := rfl
@[simp] theorem reg_setKey (k : Nibble) (p : Bool) (r : RegName) : (setKey k p s).reg r = s.reg r := rfl
@[simp] theorem reg_tick (r : RegName) : (tick s).reg r = s.reg r := rfl
@[simp] theorem key_tick (j : Nibble) : (tick s).key j = s.key j := rfl

@[simp] theorem reg_setOutcome (o : StepOutcome) (r : RegName) : (s.setOutcome o).reg r = s.reg r := rfl
@[simp] theorem key_setOutcome (o : StepOutcome) (j : Nibble) : (s.setOutcome o).key j = s.key j := rfl
@[simp] theorem reg_setHalted (f : Fatal) (r : RegName) : (s.setHalted f).reg r = s.reg r := rfl
@[simp] theorem key_setHalted (f : Fatal) (j : Nibble) : (s.setHalted f).key j = s.key j := rfl
@[simp] theorem reg_setAgenda (l : List HostOp) (r : RegName) : (s.setAgenda l).reg r = s.reg r := rfl
@[simp] theorem key_setAgenda (l : List HostOp) (j : Nibble) : (s.setAgenda l).key j = s.key j := rfl

end Reads

end Sys2Proof.Machine
end

