-- ==== Sys2Proof/Laws/Frames.lean ====
section
/-! SUPPORT. Frames: what each named update leaves unchanged, in the terms of Safety.lean, and how frames compose. -/

namespace Sys2Proof.Machine

/-! ### Composing frames -/

theorem Part.same_refl (p : Part) (s : State) : p.Same s s := by cases p <;> simp [Part.Same]

theorem Part.same_trans {p : Part} {s t u : State} (h : p.Same s t) (h' : p.Same t u) : p.Same s u := by
  cases p <;> simp_all [Part.Same]

theorem ChangesOnly.refl (f : Part → Prop) (s : State) : ChangesOnly f s s := fun p _ => p.same_refl s

theorem ChangesOnly.mono {f g : Part → Prop} (hfg : ∀ p, f p → g p) {s t : State} (h : ChangesOnly f s t) :
    ChangesOnly g s t := fun p hp => h p (fun hf => hp (hfg p hf))

theorem ChangesOnly.trans {f : Part → Prop} {s t u : State} (h : ChangesOnly f s t) (h' : ChangesOnly f t u) :
    ChangesOnly f s u := fun p hp => Part.same_trans (h p hp) (h' p hp)

/-! ### The named updates -/

theorem changes_setOutcome (s : State) (o : StepOutcome) (f : Part → Prop) : ChangesOnly f s (s.setOutcome o) := by
  intro p _; cases p <;> simp [Part.Same]

theorem changes_setHalted (s : State) (f : Fatal) : ChangesOnly (Parts [.halted]) s (s.setHalted f) := by
  intro p hp; cases p <;> simp [Part.Same]; simp [Parts] at hp

theorem changes_setAgenda (s : State) (l : List HostOp) : ChangesOnly (Parts [.agenda]) s (s.setAgenda l) := by
  intro p hp; cases p <;> simp [Part.Same]; simp [Parts] at hp

theorem changes_setReg (s : State) (x : RegName) (b : Byte) : ChangesOnly (Parts [.reg x]) s (s.setReg x b) := by
  intro p hp
  cases p with
  | reg r =>
    have h : r ≠ x := fun e => hp (by simp [Parts, e])
    simp [Part.Same, reg_setReg_other s h]
  | _ => simp [Part.Same]

theorem changes_setFlag (s : State) (b : Byte) : ChangesOnly (Parts [.reg vF]) s (s.setFlag b) :=
  changes_setReg s vF b

theorem changes_setPC (s : State) (a : Word) : ChangesOnly (Parts [.pc]) s (s.setPC a) := by
  intro p hp; cases p <;> simp [Part.Same]; simp [Parts] at hp

theorem changes_setIndex (s : State) (a : Word) : ChangesOnly (Parts [.index]) s (s.setIndex a) := by
  intro p hp; cases p <;> simp [Part.Same]; simp [Parts] at hp

theorem changes_setDelay (s : State) (b : Byte) : ChangesOnly (Parts [.delay]) s (s.setDelay b) := by
  intro p hp; cases p <;> simp [Part.Same]; simp [Parts] at hp

theorem changes_setSound (s : State) (b : Byte) : ChangesOnly (Parts [.sound]) s (s.setSound b) := by
  intro p hp; cases p <;> simp [Part.Same]; simp [Parts] at hp

theorem changes_push (s : State) (a : Word) : ChangesOnly (Parts [.stack]) s (s.push a) := by
  intro p hp; cases p <;> simp [Part.Same]; simp [Parts] at hp

theorem changes_dropTop (s : State) : ChangesOnly (Parts [.stack]) s s.dropTop := by
  intro p hp; cases p <;> simp [Part.Same]; simp [Parts] at hp

theorem changes_countDraw (s : State) : ChangesOnly (Parts [.draws]) s s.countDraw := by
  intro p hp; cases p <;> simp [Part.Same]; simp [Parts] at hp

theorem changes_setFrame (s : State) (f : Frame) : ChangesOnly AnyPixel s (s.setFrame f) := by
  intro p hp
  cases p with
  | pixel r c => exact absurd ⟨r, c, rfl⟩ hp
  | _ => simp [Part.Same]

theorem changes_writeWhere (s : State) (keep : Nat → Bool) (a : Nat) (bs : List Byte) :
    ChangesOnly (BytesAt a bs.length) s (s.setMem (s.mem.writeWhere keep a bs)) := by
  intro p hp
  cases p with
  | byte a' =>
    refine Memory.read_writeWhere_outside keep bs s.mem ?_
    by_contra h
    exact hp ⟨a' - a, by omega, by congr 1; omega⟩
  | _ => simp [Part.Same]

theorem changes_writeBytes (s : State) (a : Nat) (bs : List Byte) :
    ChangesOnly (BytesAt a bs.length) s (s.setMem (s.mem.writeBytes a bs)) := changes_writeWhere s _ a bs

end Sys2Proof.Machine
end

