-- ==== Sys2Proof/Laws/Ops.lean ====
section
/-! SUPPORT. One lemma for each shared operation: everything it can answer. -/

namespace Sys2Proof.Machine

/-! ### How a step ends -/

theorem endOk_eq (s : State) : endOk s = .next (s.setOutcome .ok) := rfl

theorem raiseFatal_eq (f : Fatal) (s : State) :
    raiseFatal f s = .next ((s.setHalted f).setOutcome (.fatal f)) := rfl

/-- A meaning that ends with `endOk t` completes, once `t` is framed and meets the postcondition; the outcome is no part
of either. -/
theorem completes_endOk {s t : State} {written : Part → Prop} {post : State → Prop}
    (hframe : ChangesOnly written s t) (hpost : post (t.setOutcome .ok)) :
    Completes (endOk t) s written post :=
  ⟨_, rfl, rfl, hpost, hframe.trans (changes_setOutcome t _ written)⟩

/-- `raiseFatal f t` halts with `f`, once `t` is framed. -/
theorem halts_raiseFatal {s t : State} {f : Fatal} {written : Part → Prop} (hframe : ChangesOnly written s t) :
    HaltsWith (raiseFatal f t) s f written := by
  refine ⟨_, rfl, rfl, rfl, (hframe.mono (fun p hp => Or.inr hp)).trans ?_⟩
  exact ((changes_setHalted t f).mono (fun p hp => Or.inl hp)).trans (changes_setOutcome _ _ _)

/-! ### Skips -/

/-- R102, R108: a skip completes; PC is 2 further exactly when its condition holds; nothing else changes. -/
theorem skipIf_completes (c : Bool) (s : State) :
    Completes (skipIf c s) s (Parts [.pc]) (fun t => t.pc = if c then s.pc + 2 else s.pc) := by
  cases c
  · exact completes_endOk (ChangesOnly.refl _ s) rfl
  · exact completes_endOk (changes_setPC s _) rfl

/-! ### Key index -/

theorem withKeyIndex_high {k : Byte} (w : Word) (s : State) (run : Nibble → StepResult) (h : 15 < k.toNat) :
    withKeyIndex k w s run = raiseFatal (.keyIndexOutOfRange k w) s := by simp [withKeyIndex, h]

theorem withKeyIndex_low {k : Byte} (w : Word) (s : State) (run : Nibble → StepResult) (h : k.toNat ≤ 15) :
    withKeyIndex k w s run = run (k.setWidth 4) := by simp [withKeyIndex, show ¬ 15 < k.toNat by omega]

/-! ### Stores and loads through `I` -/

/-- The store of a block within memory completes: its bytes are written, and nothing else changes (R51, R59). -/
theorem storeAtIndex_completes {s : State} (hm : s.mem.wf = true) {bytes : List Byte} (w : Word)
    (h : s.i.toNat + bytes.length ≤ Config.memSize) :
    Completes (storeAtIndex bytes w s) s (BytesAt s.i.toNat bytes.length)
      (fun t => ∀ k (hk : k < bytes.length), t.mem.read (s.i.toNat + k) = bytes[k]) := by
  rw [storeAtIndex, firstOutOfBounds_none h]
  exact completes_endOk (changes_writeBytes s _ bytes)
    (fun k hk => Memory.read_writeBytes_inside bytes hm hk h)

/-- The store of a block that runs out of memory halts the core at the first address out of bounds (R51, R232). -/
theorem storeAtIndex_halts {s : State} {bytes : List Byte} (w : Word) (hne : bytes ≠ [])
    (h : Config.memSize < s.i.toNat + bytes.length) :
    HaltsWith (storeAtIndex bytes w s) s (.memOutOfBounds (max s.i.toNat Config.memSize) w)
      (OrPart (BytesAt s.i.toNat bytes.length) (Parts [.draws])) := by
  have hl : ¬ (bytes.length = 0 ∨ s.i.toNat + bytes.length ≤ Config.memSize) := by
    have := List.length_pos_iff.mpr hne; omega
  rw [storeAtIndex, firstOutOfBounds_eq, if_neg hl]
  exact halts_raiseFatal
    (((changes_writeWhere s _ s.i.toNat bytes).mono (fun p hp => Or.inl hp)).trans
      ((changes_countDraw _).mono (fun p hp => Or.inr hp)))

/-- What the loading loop leaves in a register (R205). -/
theorem loadFrom_getElem (m : Memory) (keep : Nat → Bool) (base count : Nat) (v : Vector Byte 16) (r : Nat)
    (hr : r < 16) :
    (loadFrom m keep base count v)[r] = if r < count ∧ keep r = true then m.read (base + r) else v[r] := by
  induction count with
  | zero => simp [loadFrom]
  | succ k ih =>
    simp only [loadFrom]
    by_cases hk : keep k = true
    · simp only [hk, if_true, Vector.getElem_setIfInBounds, ih]
      by_cases e : k = r
      · subst e; simp [hk]
      · have : (r < k + 1) ↔ (r < k) := by omega
        simp [e, this]
    · have hk' : keep k = false := by simpa using hk
      simp only [hk', Bool.false_eq_true, if_false, ih]
      by_cases e : r = k
      · subst e; simp [hk']
      · have : (r < k + 1) ↔ (r < k) := by omega
        simp [this]

/-- The load of a block within memory completes: its registers take the bytes, and nothing else changes. -/
theorem loadAtIndex_completes {s : State} {count : Nat} (w : Word) (h : s.i.toNat + count ≤ Config.memSize) :
    Completes (loadAtIndex count w s) s (RegsBelow count)
      (fun t => ∀ r : RegName, r.toNat < count → t.reg r = s.mem.read (s.i.toNat + r.toNat)) := by
  rw [loadAtIndex, firstOutOfBounds_none h]
  refine completes_endOk ?_ ?_
  · intro p hp
    cases p with
    | reg r =>
      have hr : ¬ r.toNat < count := fun hlt => hp ⟨r, hlt, rfl⟩
      simp [Part.Same, State.reg, loadFrom_getElem, hr]
    | _ => simp [Part.Same, State.setRegs, State.key]
  · intro r hr
    simp [State.reg, loadFrom_getElem, hr]

/-- The load of a block that runs out of memory halts the core at the first address out of bounds (R51, R232). -/
theorem loadAtIndex_halts {s : State} {count : Nat} (w : Word) (hpos : 0 < count)
    (h : Config.memSize < s.i.toNat + count) :
    HaltsWith (loadAtIndex count w s) s (.memOutOfBounds (max s.i.toNat Config.memSize) w)
      (OrPart (RegsBelow count) (Parts [.draws])) := by
  have hl : ¬ (count = 0 ∨ s.i.toNat + count ≤ Config.memSize) := by omega
  rw [loadAtIndex, firstOutOfBounds_eq, if_neg hl]
  refine halts_raiseFatal ?_
  intro p hp
  cases p with
  | reg r =>
    have hr : ¬ r.toNat < count := fun hlt => hp (Or.inl ⟨r, hlt, rfl⟩)
    simp [Part.Same, State.reg, loadFrom_getElem, hr]
  | draws => exact absurd (Or.inr (by simp [Parts])) hp
  | _ => simp [Part.Same, State.setRegs, State.key, State.countDraw]

/-! ### Fetch -/

@[simp] theorem fetchOutOfBounds_iff (s : State) : s.fetchOutOfBounds = true ↔ 4094 < s.pc.toNat := by
  simp [State.fetchOutOfBounds]

/-- A step of the core, whole (R100, R101). -/
theorem instrStep_cases (s : State) :
    (∃ f, s.halted = some f ∧ instrStep s = .fault (.halted f)) ∨
    (s.halted = none ∧ 4094 < s.pc.toNat ∧ instrStep s = raiseFatal (.pcOutOfBounds s.pc) s) ∨
    (s.halted = none ∧ s.pc.toNat ≤ 4094 ∧ instrStep s = execDecoded (decode s.fetchWord) s.postFetch) := by
  cases h : s.halted with
  | some f => exact .inl ⟨f, rfl, by simp [instrStep, h]⟩
  | none =>
    by_cases hp : 4094 < s.pc.toNat
    · exact .inr (.inl ⟨rfl, hp, by simp [instrStep, h, hp]⟩)
    · exact .inr (.inr ⟨rfl, by omega, by simp [instrStep, h, hp]⟩)

end Sys2Proof.Machine
end

