-- ==== Sys2Proof/Laws/PerInstr.lean ====
section
/-! SUPPORT. The per-instruction family TableRow: an instruction's word matches its row of the opcode map (R74). -/

namespace Sys2Proof.Laws.TableRow

open Sys2Proof

/-- The word of the instruction has the fixed bits of its row of R74: `w & mask = match`. -/
def Statement (i : Instr) : Prop := Word.matchesRow (encode i) i.tableRow = true

theorem masked_ofA (op : Nibble) (nnn : Imm12) : Word.ofA op nnn &&& 0xF000#16 = Word.ofA op 0 := by
  have mask : (0xF000#16 : Word) = Word.ofA (BitVec.allOnes 4) 0 := by decide
  rw [mask]
  apply BitVec.eq_of_getLsbD_eq; intro i hi
  have h4 : i - 12 < 4 := by omega
  simp only [BitVec.getLsbD_and, BitVec.getLsbD_allOnes, bit_ofA]
  split <;> simp [h4]

theorem masked_ofXNN (op x : Nibble) (nn : Byte) : Word.ofXNN op x nn &&& 0xF0FF#16 = Word.ofXNN op 0 nn := by
  have mask : (0xF0FF#16 : Word) = Word.ofXNN (BitVec.allOnes 4) 0 (BitVec.allOnes 8) := by decide
  rw [mask]
  apply BitVec.eq_of_getLsbD_eq; intro i hi
  have h4 : i - 12 < 4 := by omega
  simp only [BitVec.getLsbD_and, BitVec.getLsbD_allOnes, Word.ofXNN, bit_ofA, bit_imm12]
  (repeat' split) <;> simp [*]

theorem masked_ofXYN (op x y n : Nibble) : Word.ofXYN op x y n &&& 0xF00F#16 = Word.ofXYN op 0 0 n := by
  have mask : (0xF00F#16 : Word) = Word.ofXYN (BitVec.allOnes 4) 0 0 (BitVec.allOnes 4) := by decide
  rw [mask]
  apply BitVec.eq_of_getLsbD_eq; intro i hi
  have h4 : i - 12 < 4 := by omega
  simp only [BitVec.getLsbD_and, BitVec.getLsbD_allOnes, Word.ofXYN, Word.ofXNN, bit_ofA, bit_imm12, bit_byte]
  (repeat' split) <;> simp [*]

theorem ofA_matches (op : Nibble) (nnn : Imm12) (m : Word) (h : Word.ofA op 0 = m) :
    Word.matchesRow (Word.ofA op nnn) (0xF000, m) = true := by
  simp only [Word.matchesRow, beq_iff_eq]
  exact (masked_ofA op nnn).trans h

theorem ofXNN_matches_op (op x : Nibble) (nn : Byte) (m : Word) (h : Word.ofA op 0 = m) :
    Word.matchesRow (Word.ofXNN op x nn) (0xF000, m) = true := ofA_matches op (Imm12.ofXNN x nn) m h

theorem ofXNN_matches (op x : Nibble) (nn : Byte) (m : Word) (h : Word.ofXNN op 0 nn = m) :
    Word.matchesRow (Word.ofXNN op x nn) (0xF0FF, m) = true := by
  simp only [Word.matchesRow, beq_iff_eq]
  exact (masked_ofXNN op x nn).trans h

theorem ofXYN_matches (op x y n : Nibble) (m : Word) (h : Word.ofXYN op 0 0 n = m) :
    Word.matchesRow (Word.ofXYN op x y n) (0xF00F, m) = true := by
  simp only [Word.matchesRow, beq_iff_eq]
  exact (masked_ofXYN op x y n).trans h

theorem cls : Statement .cls := by unfold Statement; decide

theorem ret : Statement .ret := by unfold Statement; decide

theorem sys (nnn : Imm12) : Statement (.sys nnn) := ofA_matches _ nnn _ (by decide)

theorem jp (nnn : Imm12) : Statement (.jp nnn) := ofA_matches _ nnn _ (by decide)

theorem call (nnn : Imm12) : Statement (.call nnn) := ofA_matches _ nnn _ (by decide)

theorem ldI (nnn : Imm12) : Statement (.ldI nnn) := ofA_matches _ nnn _ (by decide)

theorem jpV0 (nnn : Imm12) : Statement (.jpV0 nnn) := ofA_matches _ nnn _ (by decide)

theorem seImm (x : RegName) (nn : Byte) : Statement (.seImm x nn) := ofXNN_matches_op _ x nn _ (by decide)

theorem sneImm (x : RegName) (nn : Byte) : Statement (.sneImm x nn) := ofXNN_matches_op _ x nn _ (by decide)

theorem ldImm (x : RegName) (nn : Byte) : Statement (.ldImm x nn) := ofXNN_matches_op _ x nn _ (by decide)

theorem addImm (x : RegName) (nn : Byte) : Statement (.addImm x nn) := ofXNN_matches_op _ x nn _ (by decide)

theorem rnd (x : RegName) (nn : Byte) : Statement (.rnd x nn) := ofXNN_matches_op _ x nn _ (by decide)

theorem seReg (x y : RegName) : Statement (.seReg x y) := ofXYN_matches _ x y _ _ (by decide)

theorem ldReg (x y : RegName) : Statement (.ldReg x y) := ofXYN_matches _ x y _ _ (by decide)

theorem orReg (x y : RegName) : Statement (.orReg x y) := ofXYN_matches _ x y _ _ (by decide)

theorem andReg (x y : RegName) : Statement (.andReg x y) := ofXYN_matches _ x y _ _ (by decide)

theorem xorReg (x y : RegName) : Statement (.xorReg x y) := ofXYN_matches _ x y _ _ (by decide)

theorem addReg (x y : RegName) : Statement (.addReg x y) := ofXYN_matches _ x y _ _ (by decide)

theorem sub (x y : RegName) : Statement (.sub x y) := ofXYN_matches _ x y _ _ (by decide)

theorem shr (x y : RegName) : Statement (.shr x y) := ofXYN_matches _ x y _ _ (by decide)

theorem subn (x y : RegName) : Statement (.subn x y) := ofXYN_matches _ x y _ _ (by decide)

theorem shl (x y : RegName) : Statement (.shl x y) := ofXYN_matches _ x y _ _ (by decide)

theorem sneReg (x y : RegName) : Statement (.sneReg x y) := ofXYN_matches _ x y _ _ (by decide)

theorem drw (x y : RegName) (n : Nibble) : Statement (.drw x y n) := ofXNN_matches_op _ x (Byte.ofYN y n) _ (by decide)

theorem skp (x : RegName) : Statement (.skp x) := ofXNN_matches _ x _ _ (by decide)

theorem sknp (x : RegName) : Statement (.sknp x) := ofXNN_matches _ x _ _ (by decide)

theorem ldVxDT (x : RegName) : Statement (.ldVxDT x) := ofXNN_matches _ x _ _ (by decide)

theorem ldVxK (x : RegName) : Statement (.ldVxK x) := ofXNN_matches _ x _ _ (by decide)

theorem ldDT (x : RegName) : Statement (.ldDT x) := ofXNN_matches _ x _ _ (by decide)

theorem ldST (x : RegName) : Statement (.ldST x) := ofXNN_matches _ x _ _ (by decide)

theorem addI (x : RegName) : Statement (.addI x) := ofXNN_matches _ x _ _ (by decide)

theorem ldF (x : RegName) : Statement (.ldF x) := ofXNN_matches _ x _ _ (by decide)

theorem ldB (x : RegName) : Statement (.ldB x) := ofXNN_matches _ x _ _ (by decide)

theorem storeRegs (x : RegName) : Statement (.storeRegs x) := ofXNN_matches _ x _ _ (by decide)

theorem loadRegs (x : RegName) : Statement (.loadRegs x) := ofXNN_matches _ x _ _ (by decide)

end Sys2Proof.Laws.TableRow
end

