-- ==== Sys2Proof/Tests/Slice0.lean ====
section
/-! SUPPORT. The model's own tests: what WellFormed refuses, each encoding of R74 as a word, vectors of 95_test_vectors.md,
and, for every obligation with hypotheses, states and operands that meet them. -/

namespace Sys2Proof.Machine

/-- The state with another stack. -/
def State.withStack (s : State) (l : List Word) : State := { s with stack := l }

/-- The state with one byte of memory written. -/
def State.withByte (s : State) (a : Nat) (b : Byte) : State := s.setMem (s.mem.write a b)

/-- The state with the listed pixels flipped. -/
def State.withPixels (s : State) (ps : List (Nat × Nat)) : State :=
  s.setFrame (ps.foldl (fun f p => flipPixel f p.1 p.2) s.fb)

end Sys2Proof.Machine

namespace Sys2Proof.Tests

open Sys2Proof Sys2Proof.Machine

/-! ### Helpers -/

/-- The machine at reset. -/
def reset : State := State.reset

/-- What one step from a state leaves, the instruction word placed at its PC; read by `f`. -/
def see {α : Type} (s : State) (word : Nat) (f : State → α) : Option α :=
  match step (s.withFetchWord 16 word) with
  | .next t => some (f t)
  | .fault _ => none
  | .refused _ => none

/-- What one step from a state leaves, as the machine stands; read by `f`. -/
def seeStep {α : Type} (s : State) (f : State → α) : Option α :=
  match step s with
  | .next t => some (f t)
  | .fault _ => none
  | .refused _ => none

/-! ### WellFormed -/

/-- R75: the word 0x00E0 is CLS, so this term is refused. -/
theorem test_illformed_sys_00E0 : (Instr.sys 0x0E0).wellFormed = false := by decide

/-- R75: the word 0x00EE is RET, so this term is refused. -/
theorem test_illformed_sys_00EE : (Instr.sys 0x0EE).wellFormed = false := by decide

theorem test_wellformed_sys : (Instr.sys 0x0E1).wellFormed = true := by decide

/-! ### Decoding: one word of each row of R74 -/

theorem test_decode_cls : decode 0x00E0#16 = .instr (.cls) ∧ encode (.cls) = 0x00E0#16 := by decide

theorem test_decode_ret : decode 0x00EE#16 = .instr (.ret) ∧ encode (.ret) = 0x00EE#16 := by decide

theorem test_decode_sys : decode 0x0123#16 = .instr (.sys 0x123) ∧ encode (.sys 0x123) = 0x0123#16 := by decide

theorem test_decode_jp : decode 0x1204#16 = .instr (.jp 0x204) ∧ encode (.jp 0x204) = 0x1204#16 := by decide

theorem test_decode_call : decode 0x2210#16 = .instr (.call 0x210) ∧ encode (.call 0x210) = 0x2210#16 := by decide

theorem test_decode_seImm : decode 0x3A05#16 = .instr (.seImm 0xA 0x05) ∧ encode (.seImm 0xA 0x05) = 0x3A05#16 := by decide

theorem test_decode_sneImm : decode 0x42F7#16 = .instr (.sneImm 2 0xF7) ∧ encode (.sneImm 2 0xF7) = 0x42F7#16 := by decide

theorem test_decode_seReg : decode 0x5120#16 = .instr (.seReg 1 2) ∧ encode (.seReg 1 2) = 0x5120#16 := by decide

theorem test_decode_ldImm : decode 0x6005#16 = .instr (.ldImm 0 5) ∧ encode (.ldImm 0 5) = 0x6005#16 := by decide

theorem test_decode_addImm : decode 0x7302#16 = .instr (.addImm 3 2) ∧ encode (.addImm 3 2) = 0x7302#16 := by decide

theorem test_decode_ldReg : decode 0x8120#16 = .instr (.ldReg 1 2) ∧ encode (.ldReg 1 2) = 0x8120#16 := by decide

theorem test_decode_orReg : decode 0x8121#16 = .instr (.orReg 1 2) ∧ encode (.orReg 1 2) = 0x8121#16 := by decide

theorem test_decode_andReg : decode 0x8122#16 = .instr (.andReg 1 2) ∧ encode (.andReg 1 2) = 0x8122#16 := by decide

theorem test_decode_xorReg : decode 0x8123#16 = .instr (.xorReg 1 2) ∧ encode (.xorReg 1 2) = 0x8123#16 := by decide

theorem test_decode_addReg : decode 0x8F14#16 = .instr (.addReg 0xF 1) ∧ encode (.addReg 0xF 1) = 0x8F14#16 := by decide

theorem test_decode_sub : decode 0x8125#16 = .instr (.sub 1 2) ∧ encode (.sub 1 2) = 0x8125#16 := by decide

theorem test_decode_shr : decode 0x8126#16 = .instr (.shr 1 2) ∧ encode (.shr 1 2) = 0x8126#16 := by decide

theorem test_decode_subn : decode 0x8127#16 = .instr (.subn 1 2) ∧ encode (.subn 1 2) = 0x8127#16 := by decide

theorem test_decode_shl : decode 0x812E#16 = .instr (.shl 1 2) ∧ encode (.shl 1 2) = 0x812E#16 := by decide

theorem test_decode_sneReg : decode 0x9120#16 = .instr (.sneReg 1 2) ∧ encode (.sneReg 1 2) = 0x9120#16 := by decide

theorem test_decode_ldI : decode 0xA300#16 = .instr (.ldI 0x300) ∧ encode (.ldI 0x300) = 0xA300#16 := by decide

theorem test_decode_jpV0 : decode 0xB2FF#16 = .instr (.jpV0 0x2FF) ∧ encode (.jpV0 0x2FF) = 0xB2FF#16 := by decide

theorem test_decode_rnd : decode 0xC50F#16 = .instr (.rnd 5 0x0F) ∧ encode (.rnd 5 0x0F) = 0xC50F#16 := by decide

theorem test_decode_drw : decode 0xDAB0#16 = .instr (.drw 0xA 0xB 0) ∧ encode (.drw 0xA 0xB 0) = 0xDAB0#16 := by decide

theorem test_decode_skp : decode 0xE49E#16 = .instr (.skp 4) ∧ encode (.skp 4) = 0xE49E#16 := by decide

theorem test_decode_sknp : decode 0xE4A1#16 = .instr (.sknp 4) ∧ encode (.sknp 4) = 0xE4A1#16 := by decide

theorem test_decode_ldVxDT : decode 0xF107#16 = .instr (.ldVxDT 1) ∧ encode (.ldVxDT 1) = 0xF107#16 := by decide

theorem test_decode_ldVxK : decode 0xF30A#16 = .instr (.ldVxK 3) ∧ encode (.ldVxK 3) = 0xF30A#16 := by decide

theorem test_decode_ldDT : decode 0xF015#16 = .instr (.ldDT 0) ∧ encode (.ldDT 0) = 0xF015#16 := by decide

theorem test_decode_ldST : decode 0xF018#16 = .instr (.ldST 0) ∧ encode (.ldST 0) = 0xF018#16 := by decide

theorem test_decode_addI : decode 0xF21E#16 = .instr (.addI 2) ∧ encode (.addI 2) = 0xF21E#16 := by decide

theorem test_decode_ldF : decode 0xF229#16 = .instr (.ldF 2) ∧ encode (.ldF 2) = 0xF229#16 := by decide

theorem test_decode_ldB : decode 0xF033#16 = .instr (.ldB 0) ∧ encode (.ldB 0) = 0xF033#16 := by decide

theorem test_decode_storeRegs : decode 0xF255#16 = .instr (.storeRegs 2) ∧ encode (.storeRegs 2) = 0xF255#16 := by decide

theorem test_decode_loadRegs : decode 0xFF65#16 = .instr (.loadRegs 0xF) ∧ encode (.loadRegs 0xF) = 0xFF65#16 := by decide

/-- Words of R76, vectors E3 to E6. -/
theorem test_decode_unknown :
    [0x5121#16, 0x9121, 0x8008, 0x800F, 0xE09F, 0xE000, 0xF000, 0xF0FF, 0xF01F, 0xF066].map decode =
      [0x5121#16, 0x9121, 0x8008, 0x800F, 0xE09F, 0xE000, 0xF000, 0xF0FF, 0xF01F, 0xF066].map .unknown := by decide

/-- R70: one byte is no instruction. -/
theorem test_decode_truncated : decodeBytes [0x60] = .truncated := by decide

theorem test_decode_bytes : decodeBytes [0x60, 0x05, 0xAA] = .instr (.ldImm 0 5) [0xAA] := by decide

theorem test_decodeTableWord : decodeTableWord 16 0xF255 = some (.storeRegs 2) ∧ decodeTableWord 16 0x5121 = none := by
  decide

/-! ### Vectors of 95_test_vectors.md and the rules' own examples -/

/-- Vector C1. -/
theorem test_C1_jp : see (reset) 0x1234 (fun t => t.pc) = some (0x234) := by decide

/-- Vector C5. -/
theorem test_C5_sys : see (reset) 0x0000 (fun t => (t.pc, t.outcome)) = some (0x202, some .ok) := by decide

/-- Vector C6. -/
theorem test_C6_ret_empty : see (reset.setPC 0x212) 0x00EE (fun t => (t.pc, t.stack, t.outcome)) = some (0x214, [], some (.recoverable .stackUnderflow 0x00EE)) := by decide

/-- Vector C7. -/
theorem test_C7_ret : see ((reset.setPC 0x212).push 0x206) 0x00EE (fun t => (t.pc, t.stack, t.outcome)) = some (0x206, [], some .ok) := by decide

/-- Vector C8. -/
theorem test_C8_call_full : see ((reset.setPC 0x204).withStack (List.replicate 16 0x300)) 0x2210 (fun t => (t.pc, t.stack, t.outcome)) = some (0x206, List.replicate 16 0x300, some (.recoverable .stackOverflow 0x2210)) := by decide

/-- Vector C9. -/
theorem test_C9_call : see (reset.setPC 0x204) 0x2210 (fun t => (t.pc, t.stack)) = some (0x210, [0x206]) := by decide

/-- Vector C10. -/
theorem test_C10_seImm_skips : see ((reset.setPC 0xFFC).setReg 0 5) 0x3005 (fun t => t.pc) = some (0x1000) := by decide

/-- Vector C11. -/
theorem test_C11_seImm_falls : see ((reset.setPC 0x208).setReg 0 5) 0x3006 (fun t => t.pc) = some (0x20A) := by decide

/-- Vector C12. -/
theorem test_C12_sneImm_falls : see ((reset.setPC 0x300).setReg 2 7) 0x4207 (fun t => t.pc) = some (0x302) := by decide

/-- Vector C13. -/
theorem test_C13_sneImm_skips : see ((reset.setPC 0x300).setReg 2 7) 0x4208 (fun t => t.pc) = some (0x304) := by decide

/-- Vector C14. -/
theorem test_C14_seReg : see (reset.setReg 1 9) 0x5110 (fun t => t.pc) = some (0x204) := by decide

/-- Vector C15. -/
theorem test_C15_sneReg : see (reset.setReg 1 9) 0x9110 (fun t => t.pc) = some (0x202) := by decide

/-- Rule R111's example. -/
theorem test_R111_sneReg : see ((reset.setReg 1 1).setReg 2 2) 0x9120 (fun t => t.pc) = some (0x204) := by decide

/-- Vector C16. -/
theorem test_C16_jpV0_wide : see (reset.setReg 0 0xFF) 0xBFFF (fun t => t.pc) = some (0x10FE) := by decide

/-- Vector C17. -/
theorem test_C17_jpV0_alternate : see (((reset.setReg 0 0x40).setReg 2 1).withDialect true) 0xB2FF (fun t => t.pc) = some (0x300) := by decide

/-- Vector C20. -/
theorem test_C20_unknown : see ((reset.setReg 1 9).setReg 2 9) 0x5121 (fun t => (t.pc, t.outcome, t.reg 1)) = some (0x202, some (.unknown 0x5121), 9) := by decide

/-- Vector A1. -/
theorem test_A1_ldImm : see (reset) 0x6FAB (fun t => t.reg 15) = some (0xAB) := by decide

/-- Vector A2. -/
theorem test_A2_addImm : see (reset.setReg 3 0xFF) 0x7302 (fun t => (t.reg 3, t.reg 15)) = some (1, 0) := by decide

/-- Vector A3. -/
theorem test_A3_addImm_vF : see (reset.setReg 15 1) 0x7FFF (fun t => t.reg 15) = some (0) := by decide

/-- Vector A4. -/
theorem test_A4_ldReg : see (reset.setReg 2 0x5A) 0x8120 (fun t => t.reg 1) = some (0x5A) := by decide

/-- Vector A5. -/
theorem test_A5_orReg : see (((reset.setReg 1 0xF0).setReg 2 0x0F).setReg 15 1) 0x8121 (fun t => (t.reg 1, t.reg 15)) = some (0xFF, 1) := by decide

/-- Vector A6. -/
theorem test_A6_andReg : see ((reset.setReg 1 0xF0).setReg 2 0x3C) 0x8122 (fun t => t.reg 1) = some (0x30) := by decide

/-- Rule R136's example. -/
theorem test_R136_xorReg : see ((reset.setReg 1 0xF0).setReg 2 0x3C) 0x8123 (fun t => t.reg 1) = some (0xCC) := by decide

/-- Vector A8. -/
theorem test_A8_addReg : see ((reset.setReg 1 0xFF).setReg 2 1) 0x8124 (fun t => (t.reg 1, t.reg 15)) = some (0, 1) := by decide

/-- Vector A10. -/
theorem test_A10_addReg_vF : see ((reset.setReg 15 0x10).setReg 1 0xF0) 0x8F14 (fun t => t.reg 15) = some (1) := by decide

/-- Vector A12. -/
theorem test_A12_sub_equal : see (reset.setReg 1 5) 0x8115 (fun t => (t.reg 1, t.reg 15)) = some (0, 1) := by decide

/-- Vector A13. -/
theorem test_A13_sub_borrow : see (reset.setReg 2 1) 0x8125 (fun t => (t.reg 1, t.reg 15)) = some (0xFF, 0) := by decide

/-- Vector A15. -/
theorem test_A15_subn_borrow : see ((reset.setReg 1 5).setReg 2 3) 0x8127 (fun t => (t.reg 1, t.reg 15)) = some (0xFE, 0) := by decide

/-- Vector A16. -/
theorem test_A16_subn : see ((reset.setReg 1 3).setReg 2 5) 0x8127 (fun t => (t.reg 1, t.reg 15)) = some (2, 1) := by decide

/-- Vector A22, L. -/
theorem test_A22_shr_legacy : see ((reset.setReg 1 0x81).setReg 2 3) 0x8126 (fun t => (t.reg 1, t.reg 15, t.reg 2)) = some (1, 1, 3) := by decide

/-- Vector A22, A. -/
theorem test_A22_shr_alternate : see (((reset.setReg 1 0x81).setReg 2 3).withDialect true) 0x8126 (fun t => (t.reg 1, t.reg 15)) = some (0x40, 1) := by decide

/-- Vector A23, L. -/
theorem test_A23_shl_legacy : see ((reset.setReg 1 0x81).setReg 2 3) 0x812E (fun t => (t.reg 1, t.reg 15)) = some (6, 0) := by decide

/-- Vector A23, A. -/
theorem test_A23_shl_alternate : see (((reset.setReg 1 0x81).setReg 2 3).withDialect true) 0x812E (fun t => (t.reg 1, t.reg 15)) = some (2, 1) := by decide

/-- Vector A24: the mask 0 gives 0 whatever the draw is. -/
theorem test_A24_rnd_mask_zero : see reset 0xC300 (fun t => (t.reg 3, t.draws)) = some (Config.rand8 0 &&& 0, 1) ∧
    (Config.rand8 0 &&& 0 : Byte) = 0 := ⟨by rfl, by simp⟩

/-- Vector D1 (source scenario S2). -/
theorem test_D1_drw : see ((reset.setIndex 0x300).withByte 0x300 0xFF) 0xD011 (fun t => ((List.range 9).map (framePixel t.fb 0), t.reg 15)) = some ([true, true, true, true, true, true, true, true, false], 0) := by decide

/-- Vector D5. -/
theorem test_D5_drw_collision : see (((reset.setIndex 0x300).withByte 0x300 0x18).withPixels [(0, 0), (0, 1), (0, 2), (0, 3)]) 0xD011 (fun t => ((List.range 6).map (framePixel t.fb 0), t.reg 15)) = some ([true, true, true, false, true, false], 1) := by decide

/-- Vector D10, row 1. -/
theorem test_D10_drw_wrap : see (reset.setReg 0 62) 0xD015 (fun t => ((List.range 64).filter (framePixel t.fb 1), t.reg 15)) = some ([1, 62], 0) := by decide

/-- Vector D7. -/
theorem test_D7_drw_fatal : see (reset.setIndex 0xFFF) 0xD012 (fun t => t.halted) = some (some (.memOutOfBounds 0x1000 0xD012)) := by decide

/-- Vector D9. -/
theorem test_D9_cls : see ((reset.withPixels [(5, 5), (31, 63)]).setReg 15 1) 0x00E0 (fun t => (framePixel t.fb 5 5, framePixel t.fb 31 63, t.reg 15)) = some (false, false, 1) := by decide

/-- Vector K1. -/
theorem test_K1_skp : see (setKey 7 true ((reset.setPC 0x300).setReg 4 7)) 0xE49E (fun t => t.pc) = some (0x304) := by decide

/-- Vector K5. -/
theorem test_K5_skp_fatal : see (reset.setReg 0 16) 0xE09E (fun t => (t.halted, t.outcome)) = some (some (.keyIndexOutOfRange 16 0xE09E), some (.fatal (.keyIndexOutOfRange 16 0xE09E))) := by decide

/-- Vector K3. -/
theorem test_K3_sknp_pressed : see (setKey 7 true ((reset.setPC 0x300).setReg 4 7)) 0xE4A1 (fun t => t.pc) = some (0x302) := by decide

/-- Vector K4. -/
theorem test_K4_sknp_released : see ((reset.setPC 0x300).setReg 4 7) 0xE4A1 (fun t => t.pc) = some (0x304) := by decide

/-- Vector K6. -/
theorem test_K6_ldVxK_waits : see (reset.setPC 0x20C) 0xF30A (fun t => (t.pc, t.reg 3, t.outcome)) = some (0x20C, 0, some .ok) := by decide

/-- Vector K7. -/
theorem test_K7_ldVxK_lowest : see (setKey 12 true (setKey 9 true (reset.setPC 0x20C))) 0xF30A (fun t => (t.pc, t.reg 3)) = some (0x20E, 9) := by decide

/-- Vector T1. -/
theorem test_T1_ldVxDT : see (reset.setDelay 0x3C) 0xF107 (fun t => t.reg 1) = some (0x3C) := by decide

/-- Vector T2. -/
theorem test_T2_ldDT : see (reset.setReg 0 3) 0xF015 (fun t => t.dt) = some (3) := by decide

/-- Vector T3. -/
theorem test_T3_ldST : see (reset.setReg 0 2) 0xF018 (fun t => (t.st, tone t)) = some (2, true) := by decide

/-- Vector X1. -/
theorem test_X1_ldI : see (reset) 0xA300 (fun t => t.i) = some (0x300) := by decide

/-- Vector X3 (at risk, U14). -/
theorem test_X3_addI_exact : see (((reset.setIndex 0xFFE).setReg 2 2).setReg 15 7) 0xF21E (fun t => (t.i, t.reg 15)) = some (0x1000, 7) := by decide

/-- Vector X6. -/
theorem test_X6_addI_vF : see ((reset.setIndex 0xF02).setReg 15 0xFF) 0xFF1E (fun t => (t.i, t.reg 15)) = some (0x1001, 1) := by decide

/-- Vector X7. -/
theorem test_X7_ldF : see (reset.setReg 2 15) 0xF229 (fun t => t.i) = some (0x4B) := by decide

/-- Vector X8. -/
theorem test_X8_ldF_unmasked : see (reset.setReg 2 255) 0xF229 (fun t => t.i) = some (0x4FB) := by decide

/-- Rule R203's example. -/
theorem test_R203_ldB : see ((reset.setIndex 0x300).setReg 0 254) 0xF033 (fun t => (t.mem.readBytes 0x300 3, t.i)) = some ([2, 5, 4], 0x300) := by decide

/-- Vector X15. -/
theorem test_X15_ldB_fatal : see ((reset.setIndex 0xFFE).setReg 0 123) 0xF033 (fun t => t.halted) = some (some (.memOutOfBounds 0x1000 0xF033)) := by decide

/-- Rule R204's example. -/
theorem test_R204_storeRegs : see ((((reset.setIndex 0x400).setReg 0 1).setReg 1 2).setReg 2 3) 0xF255 (fun t => (t.mem.readBytes 0x3FF 5, t.i)) = some ([0, 1, 2, 3, 0], 0x400) := by decide

/-- Vector X17. -/
theorem test_X17_storeRegs_fatal : see (((reset.setIndex 0xFFF).setReg 0 1).setReg 1 2) 0xF155 (fun t => t.halted) = some (some (.memOutOfBounds 0x1000 0xF155)) := by decide

/-- Vector X18. -/
theorem test_X18_loadRegs : see ((((reset.setIndex 0x300).withByte 0x300 9).withByte 0x301 8).setReg 1 0x33) 0xF065 (fun t => (t.reg 0, t.reg 1)) = some (9, 0x33) := by decide

/-- Vector X19. -/
theorem test_X19_loadRegs_font : see (reset) 0xFF65 (fun t => t.v.toList) = some ([0xF0, 0x90, 0x90, 0x90, 0xF0, 0x20, 0x60, 0x20, 0x20, 0x70, 0xF0, 0x10, 0xF0, 0x80, 0xF0, 0xF0]) := by decide

/-! ### The step and the host -/

/-- Vector C3: PC = 0xFFF, `halted` set, nothing else changed. -/
theorem test_C3_fetch_fatal : seeStep (reset.setPC 0xFFF) (fun t => (t.pc, t.halted)) =
    some (0xFFF, some (.pcOutOfBounds 0xFFF)) := by decide

/-- Vector C2: the last legal fetch. -/
theorem test_C2_last_fetch : see (reset.setPC 0xFFE) 0x1234 (fun t => t.pc) = some 0x234 := by decide

/-- R262: from reset with nothing placed, the first step executes SYS 0x000. -/
theorem test_reset_runs : seeStep reset (fun t => (t.pc, t.outcome)) = some (0x202, some .ok) := by decide

/-- R100: a halted core has no step. -/
theorem test_halted_stops : (match step (reset.setHalted (.pcOutOfBounds 0xFFF)) with
    | .fault e => decide (e = .halted (.pcOutOfBounds 0xFFF)) | _ => false) = true := by decide

/-- Vectors T4, T5: the host's tick. -/
theorem test_T4_tick : seeStep (((reset.setDelay 1).setSound 2).setAgenda [.tick])
    (fun t => (t.dt, t.st, tone t, t.pc)) = some (0, 1, true, 0x200) := by decide

/-- R242: `set_key`. -/
theorem test_setKey : seeStep (reset.setAgenda [.setKey 5 true, .step]) (fun t => (t.key 5, t.key 4, t.agenda)) =
    some (true, false, [.step]) := by decide

/-- R243: one frame of the standard driver. -/
theorem test_frameAgenda : frameAgenda [(5, true)] 2 = [.setKey 5 true, .step, .step, .tick] := by decide

/-- R34: the font's last byte and the zero after it, the ROM's bytes and the zero after them. -/
theorem test_construct_memory : (construct [0x60, 0x05] conventionalFont true).map
    (fun s => [79, 80, 512, 513, 514].map s.mem.read) = some [0x80, 0, 0x60, 0x05, 0] := by decide

/-- R37: the construction argument. -/
theorem test_construct_quirk : (construct [] conventionalFont true).map (fun s => s.quirk) = some true := by decide

/-- Writing what an unlisted address reads as removes the cell: equal memories are equal data. -/
theorem test_memory_canonical : ((reset.mem.write 0x300 5).write 0x300 0) = reset.mem ∧
    (reset.mem.write 0 0xF0).cells = [] ∧ ((reset.mem.write 9 1).write 3 2).cells = [(3, 2), (9, 1)] := by decide

/-! ### Witnesses: for each obligation with hypotheses, something that meets them, at the boundaries of its clauses -/

/-- The machine at reset with a word placed at PC. -/
def holding (w : Word) : State := reset.placeWord w

theorem reset_coreMoves : reset.CoreMoves := Or.inl rfl

theorem holding_canFetch (w : Word) : (holding w).CanFetch := ⟨rfl, by show (0x200#16 : Word).toNat ≤ 4094; decide⟩

theorem holding_coreMoves (w : Word) : (holding w).CoreMoves := Or.inl rfl

/-- The longest ROM that fits, and addresses of each memory clause: 79, 80, 511 and the last ROM byte. -/
theorem witness_ConstructionGivesTheStatedValues : (List.replicate 3584 (0 : Byte)).length ≤ 3584 ∧
    3583 < (List.replicate 3584 (0 : Byte)).length ∧ 79 < 80 ∧ (80 ≤ 80 ∧ 80 < 512) ∧ (80 ≤ 511 ∧ 511 < 512) := by
  rw [List.length_replicate]; decide

/-- The clause of the bytes above the ROM, at its first address, for a ROM of two bytes. -/
theorem witness_ConstructionGivesTheStatedValues_above : ([0x60, 0x05] : List Byte).length ≤ 3584 ∧ 80 ≤ 514 ∧
    512 + ([0x60, 0x05] : List Byte).length ≤ 514 := by decide

theorem witness_OverlongRomIsRefused : 3584 < (List.replicate 3585 (0 : Byte)).length := by
  rw [List.length_replicate]; decide

theorem witness_InvHoldsAfterConstruction : (construct [0x12, 0x00] conventionalFont true).isSome = true := by decide

/-- A state that is not reset (a return address on the stack, PC at 0x10FE) has the invariant and a next state. -/
theorem witness_EveryStepKeepsInv : ((reset.push 0x1000).setPC 0x10FE).Inv ∧
    (seeStep ((reset.push 0x1000).setPC 0x10FE) (fun t => t.halted)).isSome = true := by
  refine ⟨⟨by decide, ⟨by decide, ?_⟩, ?_⟩, by decide⟩
  · intro a ha
    have ha : a ∈ [0x1000#16] := ha
    rw [List.mem_singleton.mp ha]; decide
  · show (0x10FE#16 : Word).toNat ≤ 0x10FE; decide

theorem witness_DecodeOfEncodeIsTheInstruction : (Instr.sys 0x0ED).wellFormed = true ∧
    (Instr.drw 0xF 0xF 0xF).wellFormed = true := by decide

theorem witness_EncodeOfDecodeIsTheWord : decode 0xFF65#16 = .instr (.loadRegs 0xF) := by decide

theorem witness_UnknownWordsAreThoseListed : Word.isUnknown 0x5121 = true ∧ Word.isUnknown 0x5120 = false ∧
    Word.isUnknown 0x8008 = true ∧ Word.isUnknown 0x8007 = false ∧ Word.isUnknown 0xF0FF = true := by decide

theorem witness_DecodeFollowsTheOpcodeMap : decode 0x00EE#16 = .instr .ret ∧ decode 0x9001#16 = .unknown 0x9001 := by
  decide

theorem witness_DecodePrecedenceOfClsAndRet : (Word.op 0x00E1#16 = 0#4 ∧ 0x00E1#16 ≠ 0x00E0#16 ∧ 0x00E1#16 ≠ 0x00EE#16) ∧
    (Word.matchesRow 0x00E1#16 (Instr.sys 0x0E1).tableRow = true ∧ Word.matchesRow 0x00E1#16 (Instr.sys 0).tableRow = true) := by
  decide

/-- The word at PC is the one placed there; PC = 0x200. -/
theorem witness_StepRunsTheDecodedInstruction : (holding 0x6005).CoreMoves ∧ (holding 0x6005).CanFetch ∧
    (0x6005#16 : Word).toNat = ((holding 0x6005).mem.read 0x200).toNat * 256 + ((holding 0x6005).mem.read 0x201).toNat ∧
    decode 0x6005#16 = .instr (.ldImm 0 5) :=
  ⟨holding_coreMoves _, holding_canFetch _, by decide, by decide⟩

/-- The last PC a fetch is legal at, with the host calling the step. -/
theorem witness_StepRunsTheDecodedInstruction_last : ((reset.setPC 4094).setAgenda [.step, .tick]).CoreMoves ∧
    ((reset.setPC 4094).setAgenda [.step, .tick]).CanFetch ∧ decode 0x0000#16 = .instr (.sys 0) :=
  ⟨Or.inr ⟨[.tick], rfl⟩, ⟨rfl, by show (4094#16 : Word).toNat ≤ 4094; decide⟩, by decide⟩

theorem witness_UnknownOpcodeIsASoftNoOp : (holding 0x5121).CoreMoves ∧ (holding 0x5121).CanFetch ∧
    Word.isUnknown (holding 0x5121).fetchWord = true := ⟨holding_coreMoves _, holding_canFetch _, by decide⟩

theorem witness_FetchOutOfBoundsHalts : (reset.setPC 4095).CoreMoves ∧ (reset.setPC 4095).Running ∧
    4094 < (reset.setPC 4095).pc.toNat := ⟨Or.inl rfl, rfl, by decide⟩

theorem witness_HaltedCoreHasNoStep : (reset.setHalted (.pcOutOfBounds 4095)).CoreMoves ∧
    (reset.setHalted (.pcOutOfBounds 4095)).halted = some (.pcOutOfBounds 4095) := ⟨Or.inl rfl, rfl⟩

/-- A halted core that the host ticks. -/
theorem witness_HaltMarkIsNeverCleared : (seeStep ((reset.setHalted (.pcOutOfBounds 4095)).setAgenda [.tick])
    (fun t => t.outcome)).isSome = true ∧
    ((reset.setHalted (.pcOutOfBounds 4095)).setAgenda [.tick]).halted = some (.pcOutOfBounds 4095) := by decide

theorem witness_OnlyAHaltedCoreStops : step (reset.setHalted (.pcOutOfBounds 4095)) =
    .fault (.halted (.pcOutOfBounds 4095)) := rfl

theorem witness_ReturnPopsOrIsRejected : (reset.withStack [0x206]).stack = [] ++ [0x206] ∧ reset.stack = [] := by decide

theorem witness_CallPushesOrIsRejected : (reset.withStack (List.replicate 15 0)).stack.length < 16 ∧
    (reset.withStack (List.replicate 16 0)).stack.length = 16 := by decide

theorem witness_CallsThenReturnsRestore : reset.stack.length + (List.replicate 16 (0x300 : Imm12)).length ≤ 16 := by decide

theorem witness_ShiftsFollowTheDialect : 0x81 = (if (reset.setReg 2 0x81).quirk = false then (reset.setReg 2 0x81).reg 2
    else (reset.setReg 2 0x81).reg 1).toNat := by decide

/-- A destination that is VF and one that is not: both clauses of the flag-writing statements. -/
theorem witness_flag_destinations : (1 : RegName) ≠ vF ∧ (0xF : RegName) = vF := by decide

/-- The in-memory clause at its bound and with no rows at the top of `I`; the fatal clause one byte further. -/
theorem witness_DrawFlipsTheSpritesPixels : ((0 : Nibble) = 0 ∧ (reset.setIndex 0xFFFF).i.toNat = 0xFFFF) ∧
    (reset.setIndex 4081).i.toNat + (15 : Nibble).toNat ≤ 4096 ∧
    ((15 : Nibble) ≠ 0 ∧ 4096 < (reset.setIndex 4082).i.toNat + (15 : Nibble).toNat) := by decide

/-- Glyph 0 of the font drawn on a clear frame: a 1-bit lands on a pixel that was 0. -/
theorem witness_DrawingTwiceRestores : ∃ t, exec (.drw 0 1 5) reset = .next t ∧
    (reset.i.toNat + (5 : Nibble).toNat ≤ 4096 ∧ t.i = reset.i ∧ t.spriteRows 5 = reset.spriteRows 5 ∧
      t.reg 0 = reset.reg 0 ∧ t.reg 1 = reset.reg 1 ∧ framePixel reset.fb 0 0 = false) ∧
    SpriteCovers (reset.spriteRows 5) 0 0 0 0 :=
  ⟨_, rfl, by decide, 0, 0, by decide, by decide, by decide, rfl, rfl⟩

/-- A sprite with no 1-bit. -/
theorem witness_DrawingTwiceRestores_zero : (reset.setIndex 0x300).i.toNat + (5 : Nibble).toNat ≤ 4096 ∧
    ∀ b ∈ (reset.setIndex 0x300).spriteRows 5, b = 0 := by decide

/-- The sprite 0xFF drawn twice at (0,0) where its eight pixels were already 1. The first draw erases them, which is the
state of the source's scenario S2 (vector D1), whose stated result is row 0 set and VF = 0: so the second draw cannot set
VF, as R164's last clause would have it (log 12). -/
theorem test_drw_twice_on_set_pixels :
    see (((reset.setIndex 0x300).withByte 0x300 0xFF).withPixels ((List.range 8).map (fun c => (0, c)))) 0xD011
      (fun t => (t.reg 15, decide (t.fb = clearFrame), see t 0xD011
        (fun u => ((List.range 9).map (framePixel u.fb 0), u.reg 15)))) =
    some (1, true, some ([true, true, true, true, true, true, true, true, false], 0)) := by decide

theorem witness_KeySkipsReadTheKeypad : (15 : Nibble).toNat = ((reset.setReg 0 15).reg 0).toNat ∧
    15 < ((reset.setReg 0 16).reg 0).toNat := by decide

theorem witness_FatalInstructionsLeaveThePostFetchPC : ∃ t, exec (.skp 0) (reset.setReg 0 16) = .next t ∧
    t.outcome = some (.fatal (.keyIndexOutOfRange 16 0xE09E)) := ⟨_, rfl, by decide⟩

theorem witness_WaitForKeyTakesTheLowest : (setKey 15 true reset).key 15 = true ∧
    (∀ j : Fin 15, (setKey 15 true reset).key (BitVec.ofNat 4 j.val) = false) ∧
    (∀ k : Fin 16, reset.key (BitVec.ofNat 4 k.val) = false) := by decide

theorem holding_fx0a_awaits : (holding 0xF30A).AwaitingKey 3 := by
  refine ⟨by decide, fun k => ?_⟩
  simp [holding, reset, State.key, State.placeWord, State.setMem, State.reset, State.initial]

theorem witness_AwaitingKeyStepChangesNothing : (holding 0xF30A).CoreMoves ∧ (holding 0xF30A).CanFetch ∧
    (holding 0xF30A).AwaitingKey 3 := ⟨holding_coreMoves _, holding_canFetch _, holding_fx0a_awaits⟩

theorem witness_KeyPressEndsTheWait : ((holding 0xF30A).setAgenda [.setKey 9 true]).CanFetch ∧
    ((holding 0xF30A).setAgenda [.setKey 9 true]).AwaitingKey 3 ∧
    ((holding 0xF30A).setAgenda [.setKey 9 true]).agenda = [.setKey 9 true] :=
  ⟨holding_canFetch 0xF30A, holding_fx0a_awaits, rfl⟩

theorem witness_TickCountsBothTimersDown : (reset.setAgenda [.tick, .step]).agenda = .tick :: [.step] := rfl

theorem witness_SetKeySetsOneKey : (reset.setAgenda [.setKey 3 true]).agenda = .setKey 3 true :: [] := rfl

/-- The sums 0x1000 (no flag) and 0x1001 (flag). -/
theorem witness_IndexAddFlagsOverflow : 0x1000 = ((reset.setIndex 0xFFE).setReg 2 2).i.toNat +
    (((reset.setIndex 0xFFE).setReg 2 2).reg 2).toNat ∧ 0x1001 = ((reset.setIndex 0xFFF).setReg 2 2).i.toNat +
    (((reset.setIndex 0xFFF).setReg 2 2).reg 2).toNat := by decide

/-- The last `I` at which three digits fit, and the next. -/
theorem witness_BcdStoresThreeDigits : reset.mem.wf = true ∧ (reset.setIndex 4093).i.toNat + 3 ≤ 4096 ∧
    4096 < (reset.setIndex 4094).i.toNat + 3 := by decide

/-- The last `I` at which sixteen registers fit, and the next (also for the block load). -/
theorem witness_BlockStoreWritesV0ToVx : reset.mem.wf = true ∧
    (reset.setIndex 4080).i.toNat + ((15 : RegName).toNat + 1) ≤ 4096 ∧
    4096 < (reset.setIndex 4081).i.toNat + ((15 : RegName).toNat + 1) := by decide

theorem witness_BlockLoadReadsV0ToVx : (reset.setIndex 4095).i.toNat + ((0 : RegName).toNat + 1) ≤ 4096 ∧
    4096 < (reset.setIndex 4096).i.toNat + ((0 : RegName).toNat + 1) := by decide

/-- The store's next state, and the same machine with V0 changed: its memory and `I` are the store's. -/
theorem witness_LoadAfterStoreGivesTheRegistersBack : ∃ t, reset.mem.wf = true ∧
    (reset.setIndex 0x300).i.toNat + ((1 : RegName).toNat + 1) ≤ 4096 ∧
    exec (.storeRegs 1) (reset.setIndex 0x300) = .next t ∧ (t.setReg 0 9).mem = t.mem ∧
    (t.setReg 0 9).i = (reset.setIndex 0x300).i := by
  refine ⟨_, by decide, by decide, rfl, rfl, ?_⟩
  rfl

theorem witness_FetchSeesThePrecedingStore : reset.mem.wf = true ∧ (reset.setIndex 0x200).i = reset.pc ∧
    1 ≤ (1 : RegName).toNat ∧ (reset.setIndex 0x200).i.toNat + ((1 : RegName).toNat + 1) ≤ 4096 := by decide

/-- The hypothesis of the `Only…` statements and of `KeypadAndTimersChangeOnlyAsListed`: an instruction answers a next
state. Here JP, whose PC differs. -/
theorem witness_OnlyControlTransfersWritePC : ∃ t, exec (.jp 0x300) reset = .next t := ⟨_, rfl⟩

theorem witness_OnlyIndexInstructionsWriteI : ∃ t, exec (.ldI 0x300) reset = .next t := ⟨_, rfl⟩

theorem witness_OnlyCallAndReturnWriteTheStack : ∃ t, exec (.call 0x300) reset = .next t := ⟨_, rfl⟩

theorem witness_OnlyClearAndDrawWriteTheFrame : ∃ t, exec .cls reset = .next t := ⟨_, rfl⟩

theorem witness_OnlyTheTwoStoresWriteMemory : ∃ t, exec (.ldB 0) (reset.setIndex 0x300) = .next t := ⟨_, rfl⟩

theorem witness_OnlyListedInstructionsWriteVF : ∃ t, exec (.addReg 1 2) reset = .next t := ⟨_, rfl⟩

theorem witness_KeypadAndTimersChangeOnlyAsListed : ∃ t, exec (.ldDT 1) reset = .next t := ⟨_, rfl⟩

theorem witness_ConstructionArgumentsNeverChange : (seeStep reset (fun t => t.quirk)).isSome = true := by decide

theorem witness_DialectMattersOnlyInShiftsAndIndexedJump : (∀ x y, Instr.addReg 1 2 ≠ .shr x y ∧ Instr.addReg 1 2 ≠ .shl x y) ∧
    (∀ a, Instr.addReg 1 2 ≠ .jpV0 a) := ⟨fun _ _ => ⟨Instr.noConfusion, Instr.noConfusion⟩, fun _ => Instr.noConfusion⟩

theorem witness_DialectsAgreeOnEqualOperands : (reset.setReg 1 7).reg 1 = ((reset.setReg 1 7).setReg 2 7).reg 2 ∧
    reset.reg (BitVec.ofNat 4 ((0x300 : Imm12).toNat / 256)) = reset.reg 0 := by decide

end Sys2Proof.Tests
end

section
/-! SUPPORT. The state's rules (10_state.md): what each instruction can write, what each move keeps, and the invariant. -/

namespace Sys2Proof.Machine

/-! ### What a result's next state satisfies -/

/-- If the result is a next state, `post` holds of it. -/
def Ensures (r : StepResult) (post : State → Prop) : Prop := ∀ t, r = .next t → post t

section Ensures

variable {s : State} {post : State → Prop}

theorem ensures_next (h : post s) : Ensures (.next s) post := by
  rintro t ⟨⟩
  exact h

theorem ensures_endOk (h : post (s.setOutcome .ok)) : Ensures (endOk s) post := ensures_next h

theorem ensures_raiseFatal {f : Fatal} (h : post ((s.setHalted f).setOutcome (.fatal f))) :
    Ensures (raiseFatal f s) post := ensures_next h

theorem ensures_skipIf {c : Bool} (hskip : post ((s.setPC (s.pc + 2)).setOutcome .ok))
    (hstay : post (s.setOutcome .ok)) : Ensures (skipIf c s) post := by
  cases c
  · exact ensures_endOk hstay
  · exact ensures_endOk hskip

/-- R233: a key index above 15 halts; otherwise `run` answers. -/
theorem ensures_withKeyIndex {k : Byte} {w : Word} {run : Nibble → StepResult}
    (hhalt : ∀ f, post ((s.setHalted f).setOutcome (.fatal f))) (hrun : ∀ j, Ensures (run j) post) :
    Ensures (withKeyIndex k w s run) post := by
  by_cases h : 15 < k.toNat
  · rw [withKeyIndex_high w s run h]
    exact ensures_raiseFatal (hhalt _)
  · rw [withKeyIndex_low w s run (by omega)]
    exact hrun _

/-- R203, R204, R232: the block is stored, or the core halts after storing a free part of it. -/
theorem ensures_storeAtIndex {bytes : List Byte} {w : Word}
    (hstore : post ((s.setMem (s.mem.writeBytes s.i.toNat bytes)).setOutcome .ok))
    (hhalt : ∀ keep f,
      post (((s.setMem (s.mem.writeWhere keep s.i.toNat bytes)).countDraw.setHalted f).setOutcome (.fatal f))) :
    Ensures (storeAtIndex bytes w s) post := by
  unfold storeAtIndex
  split
  · exact ensures_endOk hstore
  · exact ensures_raiseFatal (hhalt _ _)

/-- R205, R232: the registers are loaded, or the core halts after loading a free part of them. -/
theorem ensures_loadAtIndex {count : Nat} {w : Word}
    (hload : post ((s.setRegs (loadFrom s.mem (fun _ => true) s.i.toNat count s.v)).setOutcome .ok))
    (hhalt : ∀ keep f,
      post (((s.setRegs (loadFrom s.mem keep s.i.toNat count s.v)).countDraw.setHalted f).setOutcome (.fatal f))) :
    Ensures (loadAtIndex count w s) post := by
  unfold loadAtIndex
  split
  · exact ensures_endOk hload
  · exact ensures_raiseFatal (hhalt _ _)

/-- R105, R235: RET is rejected and changes nothing, or pops an entry of the stack into PC. -/
theorem ensures_ret (hempty : ∀ o, post (s.setOutcome o))
    (hpop : ∀ a ∈ s.stack, post ((s.dropTop.setPC a).setOutcome .ok)) : Ensures (exec .ret s) post := by
  simp only [exec, execRet]
  split
  · exact ensures_next (hempty _)
  · next a hlast => exact ensures_endOk (hpop a (List.mem_of_getLast? hlast))

/-- R107, R234: CALL is rejected and changes nothing, or pushes where there is room and jumps. -/
theorem ensures_call {nnn : Imm12} (hfull : ∀ o, post (s.setOutcome o))
    (hpush : s.stack.length < Config.stackDepth → post (((s.push s.pc).setPC (zextAddr nnn)).setOutcome .ok)) :
    Ensures (exec (.call nnn) s) post := by
  simp only [exec, execCall]
  split
  · exact ensures_next (hfull _)
  · exact ensures_endOk (hpush (by omega))

/-- R182: FX0A takes a key into its register, or steps PC back to wait. -/
theorem ensures_ldVxK {x : RegName} (hkey : ∀ b, post ((s.setReg x b).setOutcome .ok))
    (hwait : post ((s.setPC (s.pc - 2)).setOutcome .ok)) : Ensures (exec (.ldVxK x) s) post := by
  simp only [exec, execLdVxK]
  split
  · exact ensures_endOk (hkey _)
  · exact ensures_endOk hwait

/-- R162, R232: the sprite is drawn, or the core halts with VF and the frame buffer free. -/
theorem ensures_drw {x y : RegName} {n : Nibble}
    (hdraw : ∀ b fb, post (((s.setFlag b).setFrame fb).setOutcome .ok))
    (hhalt : ∀ b fb f, post ((((s.setFlag b).setFrame fb).countDraw.setHalted f).setOutcome (.fatal f))) :
    Ensures (exec (.drw x y n) s) post := by
  simp only [exec, execDrw]
  split
  · exact ensures_raiseFatal (hhalt _ _ _)
  · exact ensures_endOk (hdraw _ _)

/-- R201: FX1E moves `I`, with or without writing VF. -/
theorem ensures_addI {x : RegName} (hflag : ∀ a b, post (((s.setIndex a).setFlag b).setOutcome .ok))
    (hplain : ∀ a, post ((s.setIndex a).setOutcome .ok)) : Ensures (exec (.addI x) s) post := by
  simp only [exec, execAddI]
  split
  · exact ensures_endOk (hflag _ _)
  · exact ensures_endOk (hplain _)

end Ensures

/-! ### Frames of compound updates -/

section Frames

variable {s t u : State} {f g : Part → Prop}

@[simp] theorem parts_iff (ps : List Part) (p : Part) : Parts ps p ↔ p ∈ ps := Iff.rfl

@[simp] theorem orPart_iff (p : Part) : OrPart f g p ↔ f p ∨ g p := Iff.rfl

@[simp] theorem anyPixel_iff (p : Part) : AnyPixel p ↔ ∃ r c, p = .pixel r c := Iff.rfl

@[simp] theorem bytesAt_iff (base count : Nat) (p : Part) :
    BytesAt base count p ↔ ∃ k, k < count ∧ p = .byte (base + k) := Iff.rfl

@[simp] theorem regsBelow_iff (count : Nat) (p : Part) :
    RegsBelow count p ↔ ∃ x : RegName, x.toNat < count ∧ p = .reg x := Iff.rfl

theorem ChangesOnly.followedBy (h : ChangesOnly f s t) (h' : ChangesOnly g t u) : ChangesOnly (OrPart f g) s u :=
  (h.mono fun _ => Or.inl).trans (h'.mono fun _ => Or.inr)

theorem ChangesOnly.withOutcome (h : ChangesOnly f s t) (o : StepOutcome) : ChangesOnly f s (t.setOutcome o) :=
  h.trans (changes_setOutcome t o f)

theorem ChangesOnly.halting (h : ChangesOnly f s t) (e : Fatal) :
    ChangesOnly (OrPart f (Parts [.halted])) s ((t.setHalted e).setOutcome (.fatal e)) :=
  (h.followedBy (changes_setHalted t e)).withOutcome _

theorem changes_loadFrom (s : State) (keep : Nat → Bool) (base count : Nat) :
    ChangesOnly (RegsBelow count) s (s.setRegs (loadFrom s.mem keep base count s.v)) := by
  intro p hp
  cases p with
  | reg r =>
    have hr : ¬ r.toNat < count := fun hlt => hp ⟨r, hlt, rfl⟩
    simp [Part.Same, State.reg, loadFrom_getElem, hr]
  | _ => simp [Part.Same]

end Frames

/-! ### What each instruction can write -/

/-- The parts of the machine that the meaning of an instruction can write, in the state it executes in (R22 to R30). -/
@[simp] def execWrites (s : State) : Instr → Part → Prop
  | .cls => AnyPixel
  | .sys _ => Parts []
  | .ret | .call _ => Parts [.stack, .pc]
  | .jp _ | .jpV0 _ | .seImm _ _ | .sneImm _ _ | .seReg _ _ | .sneReg _ _ => Parts [.pc]
  | .skp _ | .sknp _ => Parts [.pc, .halted]
  | .ldImm x _ | .addImm x _ | .ldReg x _ | .orReg x _ | .andReg x _ | .xorReg x _ | .ldVxDT x => Parts [.reg x]
  | .addReg x _ | .sub x _ | .shr x _ | .subn x _ | .shl x _ => Parts [.reg x, .reg vF]
  | .rnd x _ => Parts [.reg x, .draws]
  | .drw _ _ _ => OrPart (Parts [.reg vF]) (OrPart AnyPixel (Parts [.draws, .halted]))
  | .ldVxK x => Parts [.reg x, .pc]
  | .ldI _ | .ldF _ => Parts [.index]
  | .addI _ => Parts [.index, .reg vF]
  | .ldDT _ => Parts [.delay]
  | .ldST _ => Parts [.sound]
  | .ldB _ => OrPart (BytesAt s.i.toNat 3) (Parts [.draws, .halted])
  | .storeRegs x => OrPart (BytesAt s.i.toNat (x.toNat + 1)) (Parts [.draws, .halted])
  | .loadRegs x => OrPart (RegsBelow (x.toNat + 1)) (Parts [.draws, .halted])

section Writes

variable {s : State}

theorem endOk_changesOnly {t : State} {f : Part → Prop} (h : ChangesOnly f s t) :
    Ensures (endOk t) (ChangesOnly f s) := ensures_endOk (h.withOutcome _)

theorem skipIf_changesOnly {c : Bool} {f : Part → Prop} (hpc : f .pc) : Ensures (skipIf c s) (ChangesOnly f s) :=
  ensures_skipIf (((changes_setPC s _).mono (by simpa)).withOutcome _) ((ChangesOnly.refl f s).withOutcome _)

theorem withKeyIndex_skip_changesOnly {k : Byte} {w : Word} {c : Nibble → Bool} :
    Ensures (withKeyIndex k w s (fun j => skipIf (c j) s)) (ChangesOnly (Parts [.pc, .halted]) s) :=
  ensures_withKeyIndex (fun e => ((changes_setHalted s e).mono (by simp)).withOutcome _)
    (fun _ => skipIf_changesOnly (by simp))

theorem storeAtIndex_changesOnly {bytes : List Byte} {w : Word} {count : Nat} (hlen : bytes.length = count) :
    Ensures (storeAtIndex bytes w s)
      (ChangesOnly (OrPart (BytesAt s.i.toNat count) (Parts [.draws, .halted])) s) := by
  subst hlen
  refine ensures_storeAtIndex (((changes_writeBytes s _ bytes).mono fun _ => Or.inl).withOutcome _) fun keep e => ?_
  exact (((changes_writeWhere s keep _ bytes).followedBy (changes_countDraw _)).halting e).mono (by simp [or_assoc])

theorem loadAtIndex_changesOnly {count : Nat} {w : Word} :
    Ensures (loadAtIndex count w s) (ChangesOnly (OrPart (RegsBelow count) (Parts [.draws, .halted])) s) := by
  refine ensures_loadAtIndex (((changes_loadFrom s _ _ count).mono fun _ => Or.inl).withOutcome _) fun keep e => ?_
  exact (((changes_loadFrom s keep _ count).followedBy (changes_countDraw _)).halting e).mono (by simp [or_assoc])

/-- No instruction changes a part outside those `execWrites` names. -/
theorem exec_changesOnly (i : Instr) (s : State) : Ensures (exec i s) (ChangesOnly (execWrites s i) s) := by
  cases i with
  | cls => exact endOk_changesOnly (changes_setFrame s _)
  | sys _ => exact endOk_changesOnly (.refl _ s)
  | jp _ | jpV0 _ => exact endOk_changesOnly (changes_setPC s _)
  | seImm _ _ | sneImm _ _ | seReg _ _ | sneReg _ _ => exact skipIf_changesOnly (by simp)
  | skp _ => exact withKeyIndex_skip_changesOnly
  | sknp _ => exact withKeyIndex_skip_changesOnly (c := fun k => !s.key k)
  | ldImm x _ | addImm x _ | ldReg x _ | orReg x _ | andReg x _ | xorReg x _ | ldVxDT x =>
    exact endOk_changesOnly (changes_setReg s x _)
  | addReg x _ | sub x _ | shr x _ | subn x _ | shl x _ =>
    exact endOk_changesOnly (((changes_setReg s x _).followedBy (changes_setFlag _ _)).mono (by simp))
  | rnd x _ => exact endOk_changesOnly (((changes_setReg s x _).followedBy (changes_countDraw _)).mono (by simp))
  | ldI _ | ldF _ => exact endOk_changesOnly (changes_setIndex s _)
  | ldDT _ => exact endOk_changesOnly (changes_setDelay s _)
  | ldST _ => exact endOk_changesOnly (changes_setSound s _)
  | ret =>
    exact ensures_ret (fun o => (ChangesOnly.refl _ s).withOutcome o) fun a _ =>
      (((changes_dropTop s).followedBy (changes_setPC _ a)).mono (by simp)).withOutcome _
  | call _ =>
    exact ensures_call (fun o => (ChangesOnly.refl _ s).withOutcome o) fun _ =>
      (((changes_push s s.pc).followedBy (changes_setPC _ _)).mono (by simp)).withOutcome _
  | ldVxK x =>
    exact ensures_ldVxK (fun b => ((changes_setReg s x b).mono (by simp)).withOutcome _)
      (((changes_setPC s _).mono (by simp)).withOutcome _)
  | addI _ =>
    exact ensures_addI
      (fun a b => (((changes_setIndex s a).followedBy (changes_setFlag _ b)).mono (by simp)).withOutcome _)
      (fun a => ((changes_setIndex s a).mono (by simp)).withOutcome _)
  | drw _ _ _ =>
    have hdraw (b fb) := (changes_setFlag s b).followedBy (changes_setFrame _ fb)
    exact ensures_drw (fun b fb => ((hdraw b fb).mono fun _ => .imp_right .inl).withOutcome _) fun b fb e =>
      (((hdraw b fb).followedBy (changes_countDraw _)).halting e).mono (by simp [or_assoc])
  | ldB _ => exact storeAtIndex_changesOnly rfl
  | storeRegs _ => exact storeAtIndex_changesOnly (by simp [State.regsUpTo])
  | loadRegs _ => exact loadAtIndex_changesOnly

theorem exec_keeps_quirk (i : Instr) (s : State) : Ensures (exec i s) fun t => t.quirk = s.quirk := by
  intro t h
  exact exec_changesOnly i s t h .quirk (by cases i <;> simp)

theorem exec_keeps_font (i : Instr) (s : State) : Ensures (exec i s) fun t => t.mem.font = s.mem.font := by
  intro t h
  exact exec_changesOnly i s t h .font (by cases i <;> simp)

end Writes

/-! ### Which instructions write which part -/

/-- Settles O51: only the instructions listed have PC among the parts they write. -/
theorem onlyControlTransfersWritePC : Obligations.OnlyControlTransfersWritePC := by
  intro i s t h
  have frame := exec_changesOnly i s t h .pc
  cases i with
  | ret | jp _ | call _ | jpV0 _ | seImm _ _ | sneImm _ _ | seReg _ _ | sneReg _ _ | skp _ | sknp _ | ldVxK _ =>
    right; simp
  | _ => exact .inl (frame (by simp))

/-- Settles O52: only the three instructions have `I` among the parts they write. -/
theorem onlyIndexInstructionsWriteI : Obligations.OnlyIndexInstructionsWriteI := by
  intro i s t h
  have frame := exec_changesOnly i s t h .index
  cases i with
  | ldI _ | addI _ | ldF _ => right; simp
  | _ => exact .inl (frame (by simp))

/-- Settles O53: only RET and CALL have the stack among the parts they write. -/
theorem onlyCallAndReturnWriteTheStack : Obligations.OnlyCallAndReturnWriteTheStack := by
  intro i s t h
  have frame := exec_changesOnly i s t h .stack
  cases i with
  | ret | call _ => right; simp
  | _ => exact .inl (frame (by simp))

theorem frame_ext {f g : Frame} (h : ∀ r c, framePixel f r c = framePixel g r c) : f = g := by
  ext r hr c hc
  simpa [framePixel_eq, hr, hc] using h r c

theorem keys_ext {s t : State} (h : ∀ k, t.key k = s.key k) : t.keys = s.keys := by
  ext j hj
  simpa [State.key, Nat.mod_eq_of_lt hj] using h (BitVec.ofNat 4 j)

/-- Settles O54: only CLS and DRW have pixels among the parts they write. -/
theorem onlyClearAndDrawWriteTheFrame : Obligations.OnlyClearAndDrawWriteTheFrame := by
  intro i s t h
  have frame (r c) := exec_changesOnly i s t h (.pixel r c)
  cases i with
  | cls | drw _ _ _ => right; simp
  | _ => exact .inl (frame_ext fun r c => frame r c (by simp))

/-- Settles O56: where VF is not a register the instruction names as its destination, it is among the written parts only
of the instructions that write a flag. -/
theorem onlyListedInstructionsWriteVF : Obligations.OnlyListedInstructionsWriteVF := by
  intro i s t h
  have frame := exec_changesOnly i s t h (.reg vF)
  cases i with
  | addReg _ _ | sub _ _ | shr _ _ | subn _ _ | shl _ _ | drw _ _ _ | addI _ => right; simp
  | ldImm x _ | addImm x _ | rnd x _ | ldReg x _ | orReg x _ | andReg x _ | xorReg x _ | ldVxDT x | ldVxK x =>
    by_cases hx : x = vF
    · right; simp [hx]
    · exact .inl (frame (by simp [Ne.symm hx]))
  | loadRegs x =>
    by_cases hx : x = vF
    · right; simp [hx]
    · have hout : ¬ vF.toNat < x.toNat + 1 := by bv_omega
      exact .inl (frame (by simpa using hout))
  | _ => exact .inl (frame (by simp))

/-- Settles O57: no instruction has a key among the parts it writes, only FX15 has DT and only FX18 has ST. -/
theorem keypadAndTimersChangeOnlyAsListed : Obligations.KeypadAndTimersChangeOnlyAsListed := by
  intro i s t h
  have frame := exec_changesOnly i s t h
  refine ⟨keys_ext fun k => frame (.key k) (by cases i <;> simp), ?_, ?_⟩
  · cases i with
    | ldDT _ => right; simp
    | _ => exact .inl (frame .delay (by simp))
  · cases i with
    | ldST _ => right; simp
    | _ => exact .inl (frame .sound (by simp))

/-! ### What a move can do -/

section Moves

variable {s t : State}

/-- R100, R101: a step of the core that answers a next state halts on its fetch, or ends as an unknown opcode or as the
decoded instruction does, in the post-fetch state. -/
theorem instrStep_next_cases (h : instrStep s = .next t) :
    s.halted = none ∧
      (4094 < s.pc.toNat ∧ t = (s.setHalted (.pcOutOfBounds s.pc)).setOutcome (.fatal (.pcOutOfBounds s.pc)) ∨
        s.pc.toNat ≤ 4094 ∧
          (t = s.postFetch.setOutcome (.unknown s.fetchWord) ∨
            ∃ i, decode s.fetchWord = .instr i ∧ exec i s.postFetch = .next t)) := by
  obtain ⟨f, -, e⟩ | ⟨hrun, hpc, e⟩ | ⟨hrun, hpc, e⟩ := instrStep_cases s <;> rw [e] at h
  · cases h
  · cases h
    exact ⟨hrun, .inl ⟨hpc, rfl⟩⟩
  · refine ⟨hrun, .inr ⟨hpc, ?_⟩⟩
    cases hd : decode s.fetchWord with
    | instr i => exact .inr ⟨i, rfl, by rwa [hd] at h⟩
    | unknown w =>
      obtain rfl := decode_unknown_word _ hd
      rw [hd] at h
      cases h
      exact .inl rfl

/-- R242: a move that answers a next state is a step of the core, a key change or a tick, each with the agenda's first
entry gone. -/
theorem step_next_cases (h : step s = .next t) :
    (s.CoreMoves ∧ instrStep s.stepCalled = .next t) ∨
    (∃ k p rest, s.agenda = .setKey k p :: rest ∧ t = setKey k p s.stepCalled) ∨
    (∃ rest, s.agenda = .tick :: rest ∧ t = tick s.stepCalled) := by
  unfold step nextMove at h
  unfold State.CoreMoves State.stepCalled
  cases ha : s.agenda with
  | nil =>
    have hsame : s.setAgenda [] = s := by rw [← ha]; rfl
    rw [ha] at h
    exact .inl ⟨.inl rfl, by rwa [List.tail_nil, hsame]⟩
  | cons op rest =>
    rw [ha] at h
    cases op with
    | step => exact .inl ⟨.inr ⟨rest, rfl⟩, h⟩
    | setKey k p =>
      cases h
      exact .inr (.inl ⟨k, p, rest, rfl, rfl⟩)
    | tick =>
      cases h
      exact .inr (.inr ⟨rest, rfl, rfl⟩)

end Moves

theorem instrStep_keeps_quirk_and_font (s : State) :
    Ensures (instrStep s) fun t => t.quirk = s.quirk ∧ t.mem.font = s.mem.font := by
  intro t h
  obtain ⟨-, ⟨-, rfl⟩ | ⟨-, rfl | ⟨i, -, hi⟩⟩⟩ := instrStep_next_cases h
  · exact ⟨rfl, rfl⟩
  · exact ⟨rfl, rfl⟩
  · exact ⟨exec_keeps_quirk i s.postFetch t hi, exec_keeps_font i s.postFetch t hi⟩

/-- Settles O58: neither the dialect nor the font is among the parts an instruction writes, and the fetch, the halt and
the host's operations leave both. -/
theorem constructionArgumentsNeverChange : Obligations.ConstructionArgumentsNeverChange := by
  intro s t h
  obtain ⟨-, h⟩ | ⟨k, p, rest, -, rfl⟩ | ⟨rest, -, rfl⟩ := step_next_cases h
  · exact instrStep_keeps_quirk_and_font s.stepCalled t h
  · exact ⟨rfl, rfl⟩
  · exact ⟨rfl, rfl⟩

/-! ### The dialect -/

section Dialect

variable (s : State) (q : Bool)

@[simp] theorem State.withDialect_i : (s.withDialect q).i = s.i := rfl
@[simp] theorem State.withDialect_stack : (s.withDialect q).stack = s.stack := rfl
@[simp] theorem State.withDialect_firstKey : (s.withDialect q).firstKey = s.firstKey := rfl

theorem skipIf_withDialect (c : Bool) :
    skipIf c (s.withDialect q) = mapNext (·.withDialect q) (skipIf c s) := by
  cases c <;> rfl

theorem withKeyIndex_withDialect (k : Byte) (w : Word) {run run' : Nibble → StepResult}
    (hrun : ∀ j, run' j = mapNext (·.withDialect q) (run j)) :
    withKeyIndex k w (s.withDialect q) run' = mapNext (·.withDialect q) (withKeyIndex k w s run) := by
  by_cases h : 15 < k.toNat
  · rw [withKeyIndex_high _ _ _ h, withKeyIndex_high _ _ _ h]
    rfl
  · rw [withKeyIndex_low _ _ _ (by omega), withKeyIndex_low _ _ _ (by omega), hrun]

theorem storeAtIndex_withDialect (bytes : List Byte) (w : Word) :
    storeAtIndex bytes w (s.withDialect q) = mapNext (·.withDialect q) (storeAtIndex bytes w s) := by
  simp only [storeAtIndex, State.withDialect_i]
  split <;> rfl

theorem loadAtIndex_withDialect (count : Nat) (w : Word) :
    loadAtIndex count w (s.withDialect q) = mapNext (·.withDialect q) (loadAtIndex count w s) := by
  simp only [loadAtIndex, State.withDialect_i]
  split <;> rfl

end Dialect

/-- Settles O59: outside the two shifts and the indexed jump, no meaning reads the dialect and every one keeps it. -/
theorem dialectMattersOnlyInShiftsAndIndexedJump : Obligations.DialectMattersOnlyInShiftsAndIndexedJump := by
  intro i s q hshift hjump
  cases i with
  | shr x y => exact absurd rfl (hshift x y).1
  | shl x y => exact absurd rfl (hshift x y).2
  | jpV0 a => exact absurd rfl (hjump a)
  | seImm _ _ | sneImm _ _ | seReg _ _ | sneReg _ _ => exact skipIf_withDialect s q _
  | skp _ | sknp _ => exact withKeyIndex_withDialect s q _ _ fun _ => skipIf_withDialect s q _
  | ldB _ | storeRegs _ => exact storeAtIndex_withDialect s q _ _
  | loadRegs _ => exact loadAtIndex_withDialect s q _ _
  | ret =>
    simp only [exec, execRet, State.withDialect_stack]
    split <;> rfl
  | ldVxK _ =>
    simp only [exec, execLdVxK, State.withDialect_firstKey]
    split <;> rfl
  | drw _ _ _ =>
    simp only [exec, execDrw, State.withDialect_i]
    split <;> rfl
  | call _ =>
    simp only [exec, execCall, apply_ite (mapNext _)]
    rfl
  | addI _ =>
    simp only [exec, execAddI, apply_ite endOk, apply_ite (mapNext _)]
    rfl
  | _ => rfl

/-! ### Construction -/

theorem construct_of_fits {rom : List Byte} (font : Vector Byte 80) (quirk : Bool) (h : rom.length ≤ 3584) :
    construct rom font quirk = some ((State.initial font quirk).setMem
      ((State.initial font quirk).mem.writeBytes Config.romBase rom)) :=
  if_neg (Nat.not_lt.mpr h)

theorem initial_mem_wf (font : Vector Byte 80) (quirk : Bool) : (State.initial font quirk).mem.wf = true := rfl

/-- R34, R36: with nothing stored, an address reads as the font's byte, and as 0 beyond the font. -/
theorem initial_read (font : Vector Byte 80) (quirk : Bool) (a : Nat) :
    (State.initial font quirk).mem.read a = (font[a]?).getD 0 := rfl

/-- Settles O1: the ROM's bytes are the ones stored at 512 on, and everything else reads as the initial state does. -/
theorem constructionGivesTheStatedValues : Obligations.ConstructionGivesTheStatedValues := by
  intro rom font quirk hlen
  refine ⟨_, construct_of_fits font quirk hlen, fun x => ?_, rfl, rfl, fun a ha => ?_, fun k hk => ?_,
    fun a hfont hrom => ?_, rfl, rfl, rfl, fun k => ?_, framePixel_clearFrame, rfl, rfl⟩
  · simp [State.reg, State.initial]
  · rw [State.setMem_mem, Memory.read_writeBytes_outside rom _ (.inl (show a < 512 by omega)), initial_read]
    simp [ha]
  · exact Memory.read_writeBytes_inside rom (initial_mem_wf font quirk) hk (show 512 + rom.length ≤ 4096 by omega)
  · rw [State.setMem_mem, Memory.read_writeBytes_outside rom _ hrom, initial_read]
    simp [Nat.not_lt.mpr hfont]
  · simp [State.key, State.initial]

/-! ### The invariant -/

section Invariant

variable {s : State}

/-- R50, R53: an instruction leaves memory as it is, or is one of the two stores and writes bytes upward from `I`. -/
theorem exec_mem (i : Instr) (s : State) : Ensures (exec i s) fun t =>
    t.mem = s.mem ∨
      (∃ x, i = .ldB x ∨ i = .storeRegs x) ∧ ∃ keep bytes, t.mem = s.mem.writeWhere keep s.i.toNat bytes := by
  cases i with
  | ldB _ | storeRegs _ =>
    exact ensures_storeAtIndex (.inr ⟨by simp, _, _, rfl⟩) fun _ _ => .inr ⟨by simp, _, _, rfl⟩
  | loadRegs _ => exact ensures_loadAtIndex (.inl rfl) fun _ _ => .inl rfl
  | seImm _ _ | sneImm _ _ | seReg _ _ | sneReg _ _ => exact ensures_skipIf (.inl rfl) (.inl rfl)
  | skp _ | sknp _ => exact ensures_withKeyIndex (fun _ => .inl rfl) fun _ => ensures_skipIf (.inl rfl) (.inl rfl)
  | ret => exact ensures_ret (fun _ => .inl rfl) fun _ _ => .inl rfl
  | call _ => exact ensures_call (fun _ => .inl rfl) fun _ => .inl rfl
  | ldVxK _ => exact ensures_ldVxK (fun _ => .inl rfl) (.inl rfl)
  | drw _ _ _ => exact ensures_drw (fun _ _ => .inl rfl) fun _ _ _ => .inl rfl
  | addI _ => exact ensures_addI (fun _ _ => .inl rfl) fun _ => .inl rfl
  | _ => exact ensures_endOk (.inl rfl)

theorem exec_keeps_mem_wf (i : Instr) (hm : s.mem.wf = true) : Ensures (exec i s) fun t => t.mem.wf = true := by
  intro t h
  obtain e | ⟨-, keep, bytes, e⟩ := exec_mem i s t h
  · rwa [e]
  · rw [e]
    exact Memory.wf_writeWhere keep bytes hm _

/-- R25: CALL pushes the post-fetch PC below the limit of 16, RET only takes an entry off. -/
theorem exec_keeps_stackBounded (i : Instr) (hs : s.stackBounded) (hpc : s.pc.toNat ≤ 4096) :
    Ensures (exec i s) State.stackBounded := by
  obtain ⟨hlen, hentries⟩ := hs
  cases i with
  | ret =>
    refine ensures_ret (fun _ => ⟨hlen, hentries⟩) fun a _ => ⟨?_, fun b hb => ?_⟩
    · exact (List.dropLast_sublist _).length_le.trans hlen
    · exact hentries b (List.mem_of_mem_dropLast hb)
  | call _ =>
    refine ensures_call (fun _ => ⟨hlen, hentries⟩) fun hroom => ⟨?_, fun b hb => ?_⟩
    · simpa using hroom
    · obtain hb | rfl := List.mem_append.mp hb |>.imp_right List.mem_singleton.mp
      · exact hentries b hb
      · exact hpc
  | _ =>
    intro t h
    have hstack : t.stack = s.stack := exec_changesOnly _ s t h .stack (by simp)
    rw [State.stackBounded, hstack]
    exact ⟨hlen, hentries⟩

theorem toNat_zextAddr (nnn : Imm12) : (zextAddr nnn).toNat = nnn.toNat := by
  simp only [zextAddr, BitVec.toNat_setWidth]
  omega

theorem toNat_zextAddr_lt (nnn : Imm12) : (zextAddr nnn).toNat < 4096 := by
  rw [toNat_zextAddr]
  exact nnn.isLt

theorem toNat_jumpOffset_lt (s : State) (nnn : Imm12) : (s.jumpOffset nnn).toNat < 256 := by
  have hreg (x : RegName) : (s.regExt x).toNat < 256 := by
    simp only [State.regExt, BitVec.toNat_setWidth]
    omega
  unfold State.jumpOffset
  split <;> exact hreg _

/-- R103: a jump goes to at most 0xFFF, an indexed jump to at most 0xFFF + 0xFF, a return to a stack entry, and a skip or
a wait for a key 2 away from the post-fetch PC. -/
theorem exec_pcBounded (i : Instr) (hs : s.stackBounded) (hlo : 2 ≤ s.pc.toNat) (hhi : s.pc.toNat ≤ 4096) :
    Ensures (exec i s) State.pcBounded := by
  have hstay : s.pcBounded := by unfold State.pcBounded; omega
  have hskip : (s.pc + 2).toNat ≤ 0x10FE := by bv_omega
  have hback : (s.pc - 2).toNat ≤ 0x10FE := by bv_omega
  have hjump (nnn : Imm12) : (zextAddr nnn).toNat ≤ 0x10FE := by have := toNat_zextAddr_lt nnn; omega
  cases i with
  | jp nnn => exact ensures_endOk (hjump nnn)
  | jpV0 nnn =>
    have hsum : (s.jumpOffset nnn + zextAddr nnn).toNat ≤ 0x10FE := by
      have := toNat_jumpOffset_lt s nnn
      have := toNat_zextAddr_lt nnn
      rw [BitVec.toNat_add]
      omega
    exact ensures_endOk hsum
  | call nnn => exact ensures_call (fun _ => hstay) fun _ => hjump nnn
  | ret => exact ensures_ret (fun _ => hstay) fun a ha => (hs.2 a ha).trans (by decide)
  | seImm _ _ | sneImm _ _ | seReg _ _ | sneReg _ _ => exact ensures_skipIf hskip hstay
  | skp _ | sknp _ => exact ensures_withKeyIndex (fun _ => hstay) fun _ => ensures_skipIf hskip hstay
  | ldVxK _ => exact ensures_ldVxK (fun _ => hstay) hback
  | _ =>
    intro t h
    have hpc : t.pc = s.pc := exec_changesOnly _ s t h .pc (by simp)
    rwa [State.pcBounded, hpc]

/-- The invariant depends on memory, the stack and PC alone. -/
theorem State.Inv.congr {t : State} (hs : s.Inv) (hmem : t.mem = s.mem) (hstack : t.stack = s.stack)
    (hpc : t.pc = s.pc) : t.Inv where
  memory := hmem ▸ hs.memory
  stack := by simpa only [State.stackBounded, hstack] using hs.stack
  pc := by simpa only [State.pcBounded, hpc] using hs.pc

theorem exec_keeps_inv (i : Instr) (hs : s.Inv) (hlo : 2 ≤ s.pc.toNat) (hhi : s.pc.toNat ≤ 4096) :
    Ensures (exec i s) State.Inv := fun t h =>
  { memory := exec_keeps_mem_wf i hs.memory t h
    stack := exec_keeps_stackBounded i hs.stack hhi t h
    pc := exec_pcBounded i hs.stack hlo hhi t h }

/-- R101: after a fetch PC is 2 further, without wrapping. -/
theorem toNat_postFetch_pc (h : s.pc.toNat ≤ 4094) : s.postFetch.pc.toNat = s.pc.toNat + 2 := by
  rw [State.postFetch_pc]
  bv_omega

theorem State.Inv.postFetch (hs : s.Inv) (h : s.pc.toNat ≤ 4094) : s.postFetch.Inv where
  memory := hs.memory
  stack := hs.stack
  pc := by rw [State.pcBounded, toNat_postFetch_pc h]; omega

theorem instrStep_keeps_inv (hs : s.Inv) : Ensures (instrStep s) State.Inv := by
  intro t h
  obtain ⟨-, ⟨-, rfl⟩ | ⟨hpc, hend⟩⟩ := instrStep_next_cases h
  · exact hs.congr rfl rfl rfl
  · have hfetched := hs.postFetch hpc
    obtain rfl | ⟨i, -, hi⟩ := hend
    · exact hfetched.congr rfl rfl rfl
    · have hnext := toNat_postFetch_pc hpc
      exact exec_keeps_inv i hfetched (by omega) (by omega) t hi

end Invariant

/-- Settles O6: a step of the core keeps the invariant, and the host's operations leave all it depends on. -/
theorem everyStepKeepsInv : Obligations.EveryStepKeepsInv := by
  intro s t hs h
  obtain ⟨-, h⟩ | ⟨k, p, rest, -, rfl⟩ | ⟨rest, -, rfl⟩ := step_next_cases h
  · exact instrStep_keeps_inv (s := s.stepCalled) (hs.congr rfl rfl rfl) t h
  · exact hs.congr rfl rfl rfl
  · exact hs.congr rfl rfl rfl

end Sys2Proof.Machine
end

section
/-! SUPPORT. Memory (20_memory.md): the fetch of a word, the step that runs it, and what the two stores do to memory. -/

namespace Sys2Proof.Machine

/-! ### The word a fetch reads -/

/-- R9, R52: the byte at the lower address is the high byte. -/
theorem toNat_ofBytes (hi lo : Byte) : (Word.ofBytes hi lo).toNat = hi.toNat * 256 + lo.toNat := by
  rw [Word.ofBytes, BitVec.toNat_append, ← Nat.shiftLeft_add_eq_or_of_lt lo.isLt, Nat.shiftLeft_eq]

theorem toNat_fetchWord (s : State) :
    s.fetchWord.toNat = (s.mem.read s.pc.toNat).toNat * 256 + (s.mem.read (s.pc.toNat + 1)).toNat :=
  toNat_ofBytes _ _

/-! ### The step that runs it -/

section Step

variable {s : State}

/-- R242: where the core moves, the step is a step of the core with the call of it gone from the agenda. -/
theorem step_of_coreMoves (h : s.CoreMoves) : step s = instrStep s.stepCalled := by
  obtain ha | ⟨rest, ha⟩ := h
  · have hsame : s.stepCalled = s := by rw [State.stepCalled, ha, List.tail_nil, ← ha]; rfl
    rw [hsame, step, nextMove, ha]
  · rw [step, nextMove, ha, State.stepCalled, ha]
    rfl

/-- R100, R102: a core that can fetch runs the handler of the fetched word in the post-fetch state. -/
theorem instrStep_of_canFetch (h : s.CanFetch) : instrStep s = execDecoded (decode s.fetchWord) s.postFetch := by
  obtain ⟨hrun, hpc⟩ := h
  obtain ⟨f, hhalt, -⟩ | ⟨-, hhigh, -⟩ | ⟨-, -, e⟩ := instrStep_cases s
  · exact absurd (hhalt.symm.trans hrun) (Option.some_ne_none f)
  · omega
  · exact e

end Step

/-- Settles O13: `w` is the word the fetch reads, and the step is the fetched word's handler in the post-fetch state. -/
theorem stepRunsTheDecodedInstruction : Obligations.StepRunsTheDecodedInstruction := by
  intro s i w hmoves hfetch hw hdecode
  have hfetched : s.stepCalled.fetchWord = w := BitVec.eq_of_toNat_eq ((toNat_fetchWord _).trans hw.symm)
  refine ⟨?_, toNat_postFetch_pc hfetch.2⟩
  calc step s = instrStep s.stepCalled := step_of_coreMoves hmoves
    _ = execDecoded (decode s.stepCalled.fetchWord) s.stepCalled.postFetch := instrStep_of_canFetch hfetch
    _ = exec i s.stepCalled.postFetch := by rw [hfetched, hdecode, execDecoded]

/-! ### The stores -/

/-- Settles O55: an instruction leaves memory as it is or is one of the two stores. -/
theorem onlyTheTwoStoresWriteMemory : Obligations.OnlyTheTwoStoresWriteMemory := by
  intro i s t h
  exact (exec_mem i s t h).imp_right And.left

@[simp] theorem State.regsUpTo_length (s : State) (x : RegName) : (s.regsUpTo x).length = x.toNat + 1 := by
  simp [State.regsUpTo]

@[simp] theorem State.regsUpTo_getElem (s : State) (x : RegName) (k : Nat) (hk : k < (s.regsUpTo x).length) :
    (s.regsUpTo x)[k] = s.reg (BitVec.ofNat 4 k) := by
  simp [State.regsUpTo]

/-- R204: FX55 within memory completes; the bytes upward from `I` are V0 to Vx, and nothing else changes. -/
theorem exec_storeRegs_completes {s : State} (hm : s.mem.wf = true) {x : RegName}
    (h : s.i.toNat + (x.toNat + 1) ≤ Config.memSize) :
    Completes (exec (.storeRegs x) s) s (BytesAt s.i.toNat (x.toNat + 1))
      (fun t => ∀ k, k ≤ x.toNat → t.mem.read (s.i.toNat + k) = s.reg (BitVec.ofNat 4 k)) := by
  obtain ⟨t, hexec, hok, hread, hframe⟩ :=
    storeAtIndex_completes (bytes := s.regsUpTo x) hm (encode (.storeRegs x)) (by simpa using h)
  rw [State.regsUpTo_length] at hframe
  exact ⟨t, hexec, hok, fun k hk => by simp [hread k (by simp; omega)], hframe⟩

/-- Settles O50: FX55 leaves PC where it is, so the next fetch reads the first two bytes it stored, V0 and V1. -/
theorem fetchSeesThePrecedingStore : Obligations.FetchSeesThePrecedingStore := by
  intro x s hm hi hx hfits
  obtain ⟨t, hexec, -, hread, hframe⟩ := exec_storeRegs_completes hm hfits
  have hpc : t.pc = s.pc := hframe .pc (by simp)
  refine ⟨t, hexec, hpc, ?_⟩
  have hhigh : t.mem.read s.pc.toNat = s.reg 0 := hi ▸ hread 0 (Nat.zero_le _)
  have hlow : t.mem.read (s.pc.toNat + 1) = s.reg 1 := hi ▸ hread 1 hx
  rw [toNat_fetchWord, hpc, hhigh, hlow]

end Sys2Proof.Machine
end

section
/-! SUPPORT. Encoding (30_encoding.md): the words of each row of the opcode map, decode and encode as inverses, and that
every meaning answers a next state. -/

namespace Sys2Proof

/-! ### A word whose fixed fields are known -/

theorem ofA_inj {op : Nibble} {a b : Imm12} : Word.ofA op a = Word.ofA op b ↔ a = b :=
  ⟨fun h => by simpa using congrArg Word.nnn h, congrArg _⟩

section FixedFields

variable {w : Word} {op n : Nibble} {nn : Byte}

theorem ofA_of_op (hop : Word.op w = op) : Word.ofA op (Word.nnn w) = w := hop ▸ ofA_fields w

theorem ofXNN_of_op (hop : Word.op w = op) : Word.ofXNN op (Word.x w) (Word.nn w) = w := hop ▸ ofXNN_fields w

theorem ofXNN_of_op_nn (hop : Word.op w = op) (hnn : Word.nn w = nn) : Word.ofXNN op (Word.x w) nn = w :=
  hnn ▸ ofXNN_of_op hop

theorem ofXYN_of_op (hop : Word.op w = op) : Word.ofXYN op (Word.x w) (Word.y w) (Word.n w) = w :=
  hop ▸ ofXYN_fields w

theorem ofXYN_of_op_n (hop : Word.op w = op) (hn : Word.n w = n) : Word.ofXYN op (Word.x w) (Word.y w) n = w :=
  hn ▸ ofXYN_of_op hop

end FixedFields

/-! ### Decoding an encoded instruction -/

/-- R75: a SYS is well formed exactly when its word is neither CLS's nor RET's. -/
theorem wellFormed_sys_iff {nnn : Imm12} :
    (Instr.sys nnn).wellFormed = true ↔ encode (.sys nnn) ≠ 0x00E0#16 ∧ encode (.sys nnn) ≠ 0x00EE#16 := by
  have hcls : (0x00E0#16 : Word) = Word.ofA 0 0x0E0 := by decide
  have hret : (0x00EE#16 : Word) = Word.ofA 0 0x0EE := by decide
  simp [Instr.wellFormed, encode, hcls, hret, ofA_inj]

theorem decode_encode {i : Instr} (hwf : i.wellFormed = true) : decode (encode i) = .instr i := by
  cases i with
  | cls | ret => decide
  | sys nnn =>
    obtain ⟨hcls, hret⟩ := wellFormed_sys_iff.mp hwf
    have hop : Word.op (encode (.sys nnn)) = 0#4 := op_ofA 0 nnn
    rw [decode_op0 hop, if_neg hcls, if_neg hret, encode, nnn_ofA]
  | jp _ | call _ | ldI _ | jpV0 _ | seImm _ _ | sneImm _ _ | ldImm _ _ | addImm _ _ | rnd _ _ | seReg _ _
  | sneReg _ _ | drw _ _ _ => simp [encode, decode]
  | ldReg _ _ | orReg _ _ | andReg _ _ | xorReg _ _ | addReg _ _ | sub _ _ | shr _ _ | subn _ _ | shl _ _ =>
    simp [encode, decode_op8, decodeArith]
  | skp _ | sknp _ => simp [encode, decode_op14, decodeKeys]
  | ldVxDT _ | ldVxK _ | ldDT _ | ldST _ | addI _ | ldF _ | ldB _ | storeRegs _ | loadRegs _ =>
    simp [encode, decode_op15, decodeMisc]

/-- Settles O7: the fields of a built word are those it was built from, and a well-formed SYS is neither CLS nor RET. -/
theorem decodeOfEncodeIsTheInstruction : Obligations.DecodeOfEncodeIsTheInstruction := fun _ => decode_encode

/-! ### Encoding a decoded word -/

/-- R79: where a decoded outcome is an instruction, it is well formed and `w` is its word. -/
def Decoded.Spells (w : Word) (d : Decoded) : Prop := ∀ i, d = .instr i → i.wellFormed = true ∧ encode i = w

section Spells

variable {w : Word}

theorem spells_unknown {v : Word} : Decoded.Spells w (.unknown v) := nofun

theorem spells_instr {i : Instr} (hwf : i.wellFormed = true) (hword : encode i = w) : Decoded.Spells w (.instr i) := by
  rintro _ ⟨⟩
  exact ⟨hwf, hword⟩

theorem decodeArith_spells (hop : Word.op w = 0x8#4) : Decoded.Spells w (decodeArith w) := by
  unfold decodeArith
  split
  case h_10 => exact spells_unknown
  all_goals next hn => exact spells_instr rfl (ofXYN_of_op_n hop hn)

theorem decodeKeys_spells (hop : Word.op w = 0xE#4) : Decoded.Spells w (decodeKeys w) := by
  unfold decodeKeys
  split
  case h_3 => exact spells_unknown
  all_goals next hnn => exact spells_instr rfl (ofXNN_of_op_nn hop hnn)

theorem decodeMisc_spells (hop : Word.op w = 0xF#4) : Decoded.Spells w (decodeMisc w) := by
  unfold decodeMisc
  split
  case h_10 => exact spells_unknown
  all_goals next hnn => exact spells_instr rfl (ofXNN_of_op_nn hop hnn)

theorem decode_op0_spells (hop : Word.op w = 0x0#4) : Decoded.Spells w (decode w) := by
  rw [decode_op0 hop]
  have hword : encode (.sys (Word.nnn w)) = w := ofA_of_op hop
  split
  · next hcls => exact spells_instr rfl hcls.symm
  · next hcls =>
    split
    · next hret => exact spells_instr rfl hret.symm
    · next hret => exact spells_instr (wellFormed_sys_iff.mpr (by rw [hword]; exact ⟨hcls, hret⟩)) hword

theorem spells_ite_n {i : Instr} (hwf : i.wellFormed = true) (hword : Word.n w = 0#4 → encode i = w) :
    Decoded.Spells w (if Word.n w = 0#4 then .instr i else .unknown w) := by
  split
  · next hn => exact spells_instr hwf (hword hn)
  · exact spells_unknown

theorem decode_spells (w : Word) : Decoded.Spells w (decode w) := by
  obtain hop | hop | hop | hop | hop | hop | hop | hop | hop | hop | hop | hop | hop | hop | hop | hop :=
    nibble_cases (Word.op w)
  · exact decode_op0_spells hop
  · exact decode_op1 hop ▸ spells_instr rfl (ofA_of_op hop)
  · exact decode_op2 hop ▸ spells_instr rfl (ofA_of_op hop)
  · exact decode_op3 hop ▸ spells_instr rfl (ofXNN_of_op hop)
  · exact decode_op4 hop ▸ spells_instr rfl (ofXNN_of_op hop)
  · exact decode_op5 hop ▸ spells_ite_n rfl (ofXYN_of_op_n hop)
  · exact decode_op6 hop ▸ spells_instr rfl (ofXNN_of_op hop)
  · exact decode_op7 hop ▸ spells_instr rfl (ofXNN_of_op hop)
  · exact decode_op8 hop ▸ decodeArith_spells hop
  · exact decode_op9 hop ▸ spells_ite_n rfl (ofXYN_of_op_n hop)
  · exact decode_op10 hop ▸ spells_instr rfl (ofA_of_op hop)
  · exact decode_op11 hop ▸ spells_instr rfl (ofA_of_op hop)
  · exact decode_op12 hop ▸ spells_instr rfl (ofXNN_of_op hop)
  · exact decode_op13 hop ▸ spells_instr rfl (ofXYN_of_op hop)
  · exact decode_op14 hop ▸ decodeKeys_spells hop
  · exact decode_op15 hop ▸ decodeMisc_spells hop

end Spells

/-- Settles O8: each branch of the decoder reads the fields its instruction's word is built from. -/
theorem encodeOfDecodeIsTheWord : Obligations.EncodeOfDecodeIsTheWord := decode_spells

/-! ### The rows of the opcode map -/

/-- R74: the word of every instruction matches its row. -/
theorem encode_matchesRow (i : Instr) : Word.matchesRow (encode i) i.tableRow = true := by
  cases i with
  | cls => exact Laws.TableRow.cls
  | ret => exact Laws.TableRow.ret
  | drw x y n => exact Laws.TableRow.drw x y n
  | sys _ | jp _ | call _ | ldI _ | jpV0 _ => exact Laws.TableRow.ofA_matches _ _ _ (by decide)
  | seImm _ _ | sneImm _ _ | ldImm _ _ | addImm _ _ | rnd _ _ =>
    exact Laws.TableRow.ofXNN_matches_op _ _ _ _ (by decide)
  | seReg _ _ | sneReg _ _ | ldReg _ _ | orReg _ _ | andReg _ _ | xorReg _ _ | addReg _ _ | sub _ _ | shr _ _
  | subn _ _ | shl _ _ => exact Laws.TableRow.ofXYN_matches _ _ _ _ _ (by decide)
  | skp _ | sknp _ | ldVxDT _ | ldVxK _ | ldDT _ | ldST _ | addI _ | ldF _ | ldB _ | storeRegs _ | loadRegs _ =>
    exact Laws.TableRow.ofXNN_matches _ _ _ _ (by decide)

section Rows

variable {w m : Word}

/-- A row with the mask of nibble0 fixes nibble0. -/
theorem op_of_matchesRow (h : Word.matchesRow w (0xF000, m) = true) : Word.op w = m.extractLsb' 12 4 := by
  have hmask : w &&& 0xF000#16 = m := beq_iff_eq.mp h
  change _ = Word.op m
  rw [← hmask, ← ofA_fields w, Laws.TableRow.masked_ofA, op_ofA, op_ofA]

/-- A row with the mask of nibble0 and the low byte fixes these two fields. -/
theorem op_nn_of_matchesRow (h : Word.matchesRow w (0xF0FF, m) = true) :
    Word.op w = m.extractLsb' 12 4 ∧ Word.nn w = m.extractLsb' 0 8 := by
  have hmask : w &&& 0xF0FF#16 = m := beq_iff_eq.mp h
  change _ = Word.op m ∧ _ = Word.nn m
  rw [← hmask, ← ofXNN_fields w, Laws.TableRow.masked_ofXNN]
  simp only [op_ofXNN, nn_ofXNN, and_self]

/-- A row with the mask of nibble0 and nibble3 fixes these two fields. -/
theorem op_n_of_matchesRow (h : Word.matchesRow w (0xF00F, m) = true) :
    Word.op w = m.extractLsb' 12 4 ∧ Word.n w = m.extractLsb' 0 4 := by
  have hmask : w &&& 0xF00F#16 = m := beq_iff_eq.mp h
  change _ = Word.op m ∧ _ = Word.n m
  rw [← hmask, ← ofXYN_fields w, Laws.TableRow.masked_ofXYN]
  simp only [op_ofXYN, n_ofXYN, and_self]

theorem eq_of_matchesRow_allOnes (h : Word.matchesRow w (0xFFFF, m) = true) : w = m := by
  have hmask : w &&& BitVec.allOnes 16 = m := beq_iff_eq.mp h
  rwa [BitVec.and_allOnes] at hmask

/-- R74, R75: a word other than those of CLS and RET that matches a row decodes to an instruction of that row. -/
theorem decode_of_matchesRow {i : Instr} (hcls : w ≠ 0x00E0#16) (hret : w ≠ 0x00EE#16)
    (h : Word.matchesRow w i.tableRow = true) : ∃ j : Instr, decode w = .instr j ∧ j.tableRow = i.tableRow := by
  cases i with
  | cls => exact absurd (eq_of_matchesRow_allOnes h) hcls
  | ret => exact absurd (eq_of_matchesRow_allOnes h) hret
  | sys _ => exact ⟨.sys (Word.nnn w), by rw [decode_op0 (op_of_matchesRow h), if_neg hcls, if_neg hret], rfl⟩
  | jp _ | call _ | seImm _ _ | sneImm _ _ | ldImm _ _ | addImm _ _ | ldI _ | jpV0 _ | rnd _ _ | drw _ _ _ =>
    rw [decode, op_of_matchesRow h]
    exact ⟨_, rfl, rfl⟩
  | seReg _ _ | sneReg _ _ | ldReg _ _ | orReg _ _ | andReg _ _ | xorReg _ _ | addReg _ _ | sub _ _ | shr _ _
  | subn _ _ | shl _ _ =>
    obtain ⟨hop, hn⟩ := op_n_of_matchesRow h
    simp only [decode, decodeArith, hop, hn]
    exact ⟨_, rfl, rfl⟩
  | skp _ | sknp _ | ldVxDT _ | ldVxK _ | ldDT _ | ldST _ | addI _ | ldF _ | ldB _ | storeRegs _ | loadRegs _ =>
    obtain ⟨hop, hnn⟩ := op_nn_of_matchesRow h
    simp only [decode, decodeKeys, decodeMisc, hop, hnn]
    exact ⟨_, rfl, rfl⟩

end Rows

theorem decode_cls_word : decode 0x00E0#16 = .instr .cls := by decide

theorem decode_ret_word : decode 0x00EE#16 = .instr .ret := by decide

/-- Settles O10: a decoded word is its instruction's word, which matches the row; and a word that matches a row decodes
to an instruction. -/
theorem decodeFollowsTheOpcodeMap : Obligations.DecodeFollowsTheOpcodeMap := by
  intro w
  refine ⟨fun i hi => ?_, fun hunknown i => ?_⟩
  · obtain ⟨-, rfl⟩ := decode_spells w i hi
    exact encode_matchesRow i
  · by_contra hmatches
    have hcls : w ≠ 0x00E0#16 := by
      rintro rfl
      cases decode_cls_word.symm.trans hunknown
    have hret : w ≠ 0x00EE#16 := by
      rintro rfl
      cases decode_ret_word.symm.trans hunknown
    obtain ⟨j, hj, -⟩ := decode_of_matchesRow hcls hret (Bool.eq_true_of_not_eq_false hmatches)
    cases hj.symm.trans hunknown

/-- Settles O11: a word that is neither CLS's nor RET's decodes to an instruction of every row it matches, and
to one instruction only. -/
theorem decodePrecedenceOfClsAndRet : Obligations.DecodePrecedenceOfClsAndRet := by
  refine ⟨decode_cls_word, decode_ret_word, fun w hop hcls hret => ?_, fun w i j hcls hret hi hj => ?_⟩
  · rw [decode_op0 hop, if_neg hcls, if_neg hret]
  · obtain ⟨i', hdi, hrowi⟩ := decode_of_matchesRow hcls hret hi
    obtain ⟨j', hdj, hrowj⟩ := decode_of_matchesRow hcls hret hj
    cases hdi.symm.trans hdj
    exact hrowi.symm.trans hrowj

/-- Settles O12, by evaluating the decoder on the twelve words. -/
theorem sampleWordsDecode : Obligations.SampleWordsDecode := by
  unfold Obligations.SampleWordsDecode
  decide

end Sys2Proof

namespace Sys2Proof.Machine

/-! ### Every meaning answers a next state -/

section Next

variable {s : State}

theorem withKeyIndex_next {k : Byte} {w : Word} {run : Nibble → StepResult} (hrun : ∀ j, ∃ t, run j = .next t) :
    ∃ t, withKeyIndex k w s run = .next t := by
  unfold withKeyIndex
  split
  · exact ⟨_, rfl⟩
  · exact hrun _

theorem storeAtIndex_next (bytes : List Byte) (w : Word) : ∃ t, storeAtIndex bytes w s = .next t := by
  unfold storeAtIndex
  split <;> exact ⟨_, rfl⟩

theorem loadAtIndex_next (count : Nat) (w : Word) : ∃ t, loadAtIndex count w s = .next t := by
  unfold loadAtIndex
  split <;> exact ⟨_, rfl⟩

/-- R77: every instruction has a meaning in every state, and none stops the machine. -/
theorem exec_next (i : Instr) (s : State) : ∃ t, exec i s = .next t := by
  cases i with
  | skp _ | sknp _ => exact withKeyIndex_next fun _ => ⟨_, rfl⟩
  | ldB _ | storeRegs _ => exact storeAtIndex_next _ _
  | loadRegs _ => exact loadAtIndex_next _ _
  | ret | call _ | ldVxK _ | drw _ _ _ =>
    simp only [exec, execRet, execCall, execLdVxK, execDrw]
    split <;> exact ⟨_, rfl⟩
  | _ => exact ⟨_, rfl⟩

theorem execDecoded_next (d : Decoded) (s : State) : ∃ t, execDecoded d s = .next t := by
  cases d with
  | instr i => exact exec_next i s
  | unknown w => exact ⟨_, rfl⟩

/-- R100: a step of the core answers a next state, or the core is halted and there is none. -/
theorem instrStep_next_or_halted (s : State) :
    (∃ t, instrStep s = .next t) ∨ ∃ f, s.halted = some f ∧ instrStep s = .fault (.halted f) := by
  obtain hhalted | ⟨-, -, e⟩ | ⟨-, -, e⟩ := instrStep_cases s
  · exact .inr hhalted
  · exact .inl ⟨_, e⟩
  · exact .inl (e ▸ execDecoded_next _ _)

/-- R242: a move that is not a step of the core is a key change or a tick, which answers a next state. -/
theorem coreMoves_or_step_next (s : State) : s.CoreMoves ∨ ∃ t, step s = .next t := by
  cases ha : s.agenda with
  | nil => exact .inl (.inl ha)
  | cons op rest =>
    cases op with
    | step => exact .inl (.inr ⟨rest, ha⟩)
    | setKey _ _ | tick => exact .inr ⟨_, by rw [step, nextMove, ha]; rfl⟩

/-- R100, R242: a move answers a next state, or it is a step of a halted core. -/
theorem step_next_or_halted (s : State) :
    (∃ t, step s = .next t) ∨ s.CoreMoves ∧ ∃ f, s.halted = some f ∧ step s = .fault (.halted f) := by
  obtain hmoves | hnext := coreMoves_or_step_next s
  · rw [step_of_coreMoves hmoves]
    exact (instrStep_next_or_halted s.stepCalled).imp_right (And.intro hmoves)
  · exact .inl hnext

end Next

/-- Settles O18: every move but the step of a halted core answers a next state. -/
theorem onlyAHaltedCoreStops : Obligations.OnlyAHaltedCoreStops := by
  intro s
  obtain ⟨t, ht⟩ | ⟨hmoves, f, hf, hstep⟩ := step_next_or_halted s
  · rw [ht]
    exact ⟨nofun, nofun⟩
  · rw [hstep]
    refine ⟨nofun, ?_⟩
    rintro _ ⟨⟩
    exact ⟨hmoves, f, hf, rfl⟩

end Sys2Proof.Machine
end

section
/-! SUPPORT. Control flow (40_control_flow.md): the listed unknown words, RET and CALL in each of their cases, the
skips, and the moves that run no instruction. -/

namespace Sys2Proof

/-- R76: the word of an instruction has a major and a minor opcode that no entry of the list has. -/
theorem isUnknown_encode (i : Instr) : Word.isUnknown (encode i) = false := by
  cases i with
  | cls | ret => decide
  | _ => simp [encode, Word.isUnknown]

/-- R76: a listed word decodes to no instruction, since it would be that instruction's word. -/
theorem decode_of_isUnknown {w : Word} (h : Word.isUnknown w = true) : decode w = .unknown w := by
  cases hd : decode w with
  | unknown v => rw [decode_unknown_word w hd]
  | instr i =>
    obtain ⟨-, rfl⟩ := decode_spells w i hd
    cases (isUnknown_encode i).symm.trans h

end Sys2Proof

namespace Sys2Proof.Machine

section ControlFlow

variable {s : State}

/-! ### RET and CALL -/

theorem rejects_reportRecoverable (kind : RecoverableKind) (w : Word) (s : State) :
    Rejects (reportRecoverable kind w s) s kind w :=
  ⟨_, rfl, rfl, changes_setOutcome s _ _⟩

theorem exec_ret_of_append {below : List Word} {a : Word} (h : s.stack = below ++ [a]) :
    exec .ret s = endOk (s.dropTop.setPC a) := by
  rw [exec, execRet, h, List.getLast?_concat]

theorem exec_ret_of_empty (h : s.stack = []) :
    exec .ret s = reportRecoverable .stackUnderflow (encode .ret) s := by
  rw [exec, execRet, h, List.getLast?_nil]

theorem exec_call_of_room (nnn : Imm12) (h : s.stack.length < 16) :
    exec (.call nnn) s = endOk ((s.push s.pc).setPC (zextAddr nnn)) := if_neg (Nat.not_le.mpr h)

theorem exec_call_of_full (nnn : Imm12) (h : 16 ≤ s.stack.length) :
    exec (.call nnn) s = reportRecoverable .stackOverflow (encode (.call nnn)) s := if_pos h

/-! ### Skips -/

theorem skipIf_eq_completes (a b : Byte) (s : State) :
    Completes (skipIf (a == b) s) s (Parts [.pc]) (fun t => t.pc = if a = b then s.pc + 2 else s.pc) := by
  simpa only [beq_iff_eq] using skipIf_completes (a == b) s

theorem skipIf_ne_completes (a b : Byte) (s : State) :
    Completes (skipIf (a != b) s) s (Parts [.pc]) (fun t => t.pc = if a = b then s.pc else s.pc + 2) := by
  simpa only [bne_iff_ne, ne_eq, ite_not] using skipIf_completes (a != b) s

/-! ### Moves that run no instruction -/

theorem instrStep_of_halted {f : Fatal} (h : s.halted = some f) : instrStep s = .fault (.halted f) := by
  rw [instrStep, h]

/-- R113: a core that fetches a listed word reports it in the post-fetch state. -/
theorem instrStep_of_isUnknown (hfetch : s.CanFetch) (hw : Word.isUnknown s.fetchWord = true) :
    instrStep s = reportUnknown s.fetchWord s.postFetch := by
  rw [instrStep_of_canFetch hfetch, decode_of_isUnknown hw, execDecoded, execUnknown]

end ControlFlow

/-- Settles O20: the top of a non-empty stack goes into PC and off the stack; an empty stack is only reported. -/
theorem returnPopsOrIsRejected : Obligations.ReturnPopsOrIsRejected := by
  refine ⟨fun s below a h => ?_, fun s h => ?_⟩
  · rw [exec_ret_of_append h]
    have hframe := ((changes_dropTop s).followedBy (changes_setPC _ a)).mono (g := Parts [.pc, .stack]) (by simp)
    exact completes_endOk hframe ⟨rfl, by simp [h]⟩
  · rw [exec_ret_of_empty h]
    exact rejects_reportRecoverable _ _ s

/-- Settles O22: below 16 entries PC goes onto the stack and NNN into PC; a stack of 16 is only reported. -/
theorem callPushesOrIsRejected : Obligations.CallPushesOrIsRejected := by
  refine ⟨fun nnn s h => ?_, fun nnn s h => ?_⟩
  · rw [exec_call_of_room nnn h]
    have hframe := ((changes_push s s.pc).followedBy (changes_setPC _ (zextAddr nnn))).mono
      (g := Parts [.pc, .stack]) (by simp)
    exact completes_endOk hframe ⟨toNat_zextAddr nnn, rfl⟩
  · rw [exec_call_of_full nnn h.ge]
    exact rejects_reportRecoverable _ _ s

/-- Settles O24: each of the four is a skip on equality or on inequality of its two operands. -/
theorem registerSkipsFollowTheirConditions : Obligations.RegisterSkipsFollowTheirConditions := fun x y nn s =>
  ⟨skipIf_eq_completes (s.reg x) nn s, skipIf_ne_completes (s.reg x) nn s,
    skipIf_eq_completes (s.reg x) (s.reg y) s, skipIf_ne_completes (s.reg x) (s.reg y) s⟩

/-- Settles O14: the fetched word decodes to no instruction, so the step is the fetch's advance of PC and a report. -/
theorem unknownOpcodeIsASoftNoOp : Obligations.UnknownOpcodeIsASoftNoOp := by
  intro s hmoves hfetch hw
  refine ⟨_, (step_of_coreMoves hmoves).trans (instrStep_of_isUnknown (s := s.stepCalled) hfetch hw), rfl, ?_, ?_⟩
  · exact toNat_postFetch_pc hfetch.2
  · exact (changes_setPC s.stepCalled _).withOutcome _

/-- Settles O16: the move is a step of the core, which the halt mark stops. -/
theorem haltedCoreHasNoStep : Obligations.HaltedCoreHasNoStep := by
  intro s f hmoves hf
  rw [step_of_coreMoves hmoves]
  exact instrStep_of_halted (s := s.stepCalled) hf

/-- Settles O21: JP is one write of PC, and NNN fits in 16 bits. -/
theorem jumpSetsPC : Obligations.JumpSetsPC := fun nnn s =>
  completes_endOk (changes_setPC s (zextAddr nnn)) (toNat_zextAddr nnn)

end Sys2Proof.Machine
end

section
/-! SUPPORT. Arithmetic (41_alu.md): what each flag computation is as a number, the two shapes an instruction of the
family has (one register written, or a register and then VF), and its statements. -/

namespace Sys2Proof.Machine

/-! ### Flags -/

theorem carryFlag_eq (a b : Byte) : carryFlag a b = if 255 < a.toNat + b.toNat then 1 else 0 := by
  simp only [carryFlag, flagByte, decide_eq_true_eq]

theorem noBorrowFlag_eq (a b : Byte) : noBorrowFlag a b = if b.toNat ≤ a.toNat then 1 else 0 := by
  simp only [noBorrowFlag, flagByte, decide_eq_true_eq]

theorem toNat_flagByte (b : Bool) : (flagByte b).toNat = b.toNat := by cases b <;> rfl

theorem toNat_shiftedOutRight (src : Byte) : (shiftedOutRight src).toNat = src.toNat % 2 := by
  rw [shiftedOutRight, toNat_flagByte, BitVec.getLsbD, Nat.toNat_testBit, pow_zero, Nat.div_one]

theorem toNat_shiftedOutLeft (src : Byte) : (shiftedOutLeft src).toNat = src.toNat / 128 := by
  have hlt : src.toNat / 2 ^ 7 < 2 := by omega
  rw [shiftedOutLeft, toNat_flagByte, BitVec.getLsbD, Nat.toNat_testBit, Nat.mod_eq_of_lt hlt]
  rfl

/-! ### Results -/

theorem toNat_byte_sub (a b : Byte) : (a - b).toNat = (a.toNat + 256 - b.toNat) % 256 := by
  rw [BitVec.toNat_sub]
  congr 1
  omega

theorem toNat_byte_shr_one (a : Byte) : (a >>> 1).toNat = a.toNat / 2 := by
  rw [BitVec.toNat_ushiftRight, Nat.shiftRight_eq_div_pow, pow_one]

theorem toNat_byte_shl_one (a : Byte) : (a <<< 1).toNat = 2 * a.toNat % 256 := by
  rw [BitVec.toNat_shiftLeft, Nat.shiftLeft_eq, pow_one, Nat.mul_comm]

/-- R139, R141, the legacy dialect first. -/
theorem shiftSource_eq (s : State) (x y : RegName) :
    s.shiftSource x y = if s.quirk = false then s.reg y else s.reg x := by
  cases h : s.quirk <;> simp [State.shiftSource, h]

/-! ### The two shapes -/

theorem Completes.imp {r : StepResult} {s : State} {written : Part → Prop} {post post' : State → Prop}
    (h : Completes r s written post) (himp : ∀ t, post t → post' t) : Completes r s written post' := by
  obtain ⟨t, hr, hok, hpost, hframe⟩ := h
  exact ⟨t, hr, hok, himp t hpost, hframe⟩

/-- A meaning that writes one register completes with the byte in it and nothing else changed. -/
theorem setReg_completes (s : State) (x : RegName) (b : Byte) :
    Completes (endOk (s.setReg x b)) s (Parts [.reg x]) (fun t => t.reg x = b) :=
  completes_endOk (changes_setReg s x b) (reg_setReg_same s x b)

/-- R130, D9: the flag is written after the result, so VF holds it also where it is the destination. -/
theorem endWithFlag_completes (x : RegName) (result flag : Byte) (s : State) :
    Completes (endWithFlag x result flag s) s (Parts [.reg x, .reg vF])
      (fun t => (x ≠ vF → t.reg x = result) ∧ t.reg vF = flag) := by
  have hframe := ((changes_setReg s x result).followedBy (changes_setFlag _ flag)).mono
    (g := Parts [.reg x, .reg vF]) (by simp)
  refine completes_endOk hframe ⟨fun hx => ?_, reg_setFlag_vF _ flag⟩
  exact (reg_setFlag_other _ hx flag).trans (reg_setReg_same s x result)

/-! ### One register written -/

/-- Settles O26: each load is one write of a register. -/
theorem loadsWriteOnlyTheirDestination : Obligations.LoadsWriteOnlyTheirDestination := fun x y nn s =>
  ⟨setReg_completes s x nn, setReg_completes s x (s.reg y)⟩

/-- Settles O27: the one register written takes the sum of two bytes. -/
theorem addImmediateWrapsWithoutFlag : Obligations.AddImmediateWrapsWithoutFlag := by
  intro x nn s
  refine (setReg_completes s x (s.reg x + nn)).imp fun t h => ?_
  rw [h, BitVec.toNat_add]

/-- Settles O28: the one register written takes the bitwise operation of the two bytes. -/
theorem logicIsBitwiseWithoutFlag : Obligations.LogicIsBitwiseWithoutFlag := by
  intro x y s
  refine ⟨(setReg_completes s x (s.reg x ||| s.reg y)).imp fun t h b => ?_,
    (setReg_completes s x (s.reg x &&& s.reg y)).imp fun t h b => ?_,
    (setReg_completes s x (s.reg x ^^^ s.reg y)).imp fun t h b => ?_⟩
  · rw [h, BitVec.getLsbD_or]
  · rw [h, BitVec.getLsbD_and]
  · rw [h, BitVec.getLsbD_xor]

/-- Settles O32: the draw, whatever it is, is masked into the one register written, and the counter advances. -/
theorem randomIsTheMaskedDraw : Obligations.RandomIsTheMaskedDraw := by
  intro x nn s
  have hframe := ((changes_setReg s x (Config.rand8 s.draws &&& nn)).followedBy (changes_countDraw _)).mono
    (g := Parts [.reg x, .draws]) (by simp)
  refine completes_endOk hframe ⟨fun b => ?_, rfl⟩
  rw [reg_setOutcome, reg_countDraw, reg_setReg_same, BitVec.getLsbD_and]

/-! ### A register and then the flag -/

/-- Settles O29: the result is the sum of two bytes and the flag its carry. -/
theorem addSetsCarry : Obligations.AddSetsCarry := by
  intro x y s
  refine (endWithFlag_completes x _ _ s).imp fun t ⟨hresult, hflag⟩ => ⟨fun hx => ?_, ?_⟩
  · rw [hresult hx, BitVec.toNat_add]
  · rw [hflag, carryFlag_eq]

/-- R138, R140: the difference of any two bytes, with the flag of its borrow. -/
theorem endWithFlag_sub_completes (x : RegName) (a b : Byte) (s : State) :
    Completes (endWithFlag x (a - b) (noBorrowFlag a b) s) s (Parts [.reg x, .reg vF]) (fun t =>
      (x ≠ vF → (t.reg x).toNat = (a.toNat + 256 - b.toNat) % 256) ∧
      t.reg vF = if b.toNat ≤ a.toNat then 1 else 0) := by
  refine (endWithFlag_completes x _ _ s).imp fun t ⟨hresult, hflag⟩ => ⟨fun hx => ?_, ?_⟩
  · rw [hresult hx, toNat_byte_sub]
  · rw [hflag, noBorrowFlag_eq]

/-- Settles O30: SUB and SUBN are one subtraction with the operands exchanged. -/
theorem subtractionsSetNoBorrow : Obligations.SubtractionsSetNoBorrow := fun x y s =>
  ⟨endWithFlag_sub_completes x (s.reg x) (s.reg y) s, endWithFlag_sub_completes x (s.reg y) (s.reg x) s⟩

/-- Settles O31: the byte shifted is the dialect's source, and the flag is its lowest or highest bit. -/
theorem shiftsFollowTheDialect : Obligations.ShiftsFollowTheDialect := by
  intro x y s src hsrc
  rw [← shiftSource_eq] at hsrc
  subst hsrc
  refine ⟨(endWithFlag_completes x _ _ s).imp fun t ⟨hresult, hflag⟩ => ⟨fun hx => ?_, ?_⟩,
    (endWithFlag_completes x _ _ s).imp fun t ⟨hresult, hflag⟩ => ⟨fun hx => ?_, ?_⟩⟩
  · rw [hresult hx, toNat_byte_shr_one]
  · rw [hflag, toNat_shiftedOutRight]
  · rw [hresult hx, toNat_byte_shl_one]
  · rw [hflag, toNat_shiftedOutLeft]

end Sys2Proof.Machine
end

section
/-! SUPPORT. Display (42_display.md): the sprite loop as one pass over the pixels its 1-bits land on, no pixel twice, and
from that the statements of CLS and DXYN. -/

namespace Sys2Proof.Machine

/-! ### Striking pixels, each once -/

/-- What a 1-bit of the sprite does to the pixel it lands on: flip it and note whether it was 1 (R162). -/
def strikePixel (p : Frame × Bool) (rc : Nat × Nat) : Frame × Bool :=
  (flipPixel p.1 rc.1 rc.2, p.2 || framePixel p.1 rc.1 rc.2)

/-- A pixel of the 32 × 64 frame buffer (R28). -/
def OnFrame (rc : Nat × Nat) : Prop := rc.1 < Config.height ∧ rc.2 < Config.width

theorem framePixel_strikePixel_other (p : Frame × Bool) {rc rc' : Nat × Nat} (hon : OnFrame rc) (hne : rc' ≠ rc) :
    framePixel (strikePixel p rc).1 rc'.1 rc'.2 = framePixel p.1 rc'.1 rc'.2 := by
  rw [strikePixel, framePixel_flipPixel _ hon.1 hon.2, if_neg fun ⟨hr, hc⟩ => hne (Prod.ext hr hc)]

theorem framePixel_strikePixel_same (p : Frame × Bool) {rc : Nat × Nat} (hon : OnFrame rc) :
    framePixel (strikePixel p rc).1 rc.1 rc.2 = !framePixel p.1 rc.1 rc.2 := by
  rw [strikePixel, framePixel_flipPixel _ hon.1 hon.2, if_pos ⟨rfl, rfl⟩]

section Strikes

variable {l : List (Nat × Nat)}

theorem framePixel_strikes_of_notMem (hon : ∀ rc ∈ l, OnFrame rc) (p : Frame × Bool) {rc : Nat × Nat} (hrc : rc ∉ l) :
    framePixel (l.foldl strikePixel p).1 rc.1 rc.2 = framePixel p.1 rc.1 rc.2 := by
  induction l generalizing p with
  | nil => rfl
  | cons a l ih =>
    obtain ⟨ha, hl⟩ := List.forall_mem_cons.mp hon
    obtain ⟨hne, hrest⟩ := not_or.mp (mt List.mem_cons.mpr hrc)
    exact (ih hl _ hrest).trans (framePixel_strikePixel_other p ha hne)

theorem framePixel_strikes_of_mem (hon : ∀ rc ∈ l, OnFrame rc) (hnodup : l.Nodup) (p : Frame × Bool) {rc : Nat × Nat}
    (hrc : rc ∈ l) : framePixel (l.foldl strikePixel p).1 rc.1 rc.2 = !framePixel p.1 rc.1 rc.2 := by
  induction l generalizing p with
  | nil => cases hrc
  | cons a l ih =>
    obtain ⟨ha, hl⟩ := List.forall_mem_cons.mp hon
    obtain ⟨hnotMem, hrest⟩ := List.nodup_cons.mp hnodup
    obtain rfl | hmem := List.mem_cons.mp hrc
    · exact (framePixel_strikes_of_notMem hl _ hnotMem).trans (framePixel_strikePixel_same p ha)
    · have hne : rc ≠ a := fun e => hnotMem (e ▸ hmem)
      rw [List.foldl_cons, ih hl hrest _ hmem, framePixel_strikePixel_other p ha hne]

/-- No pixel is struck before its turn, so the collision is about the pixels as they were at first. -/
theorem strikes_collide_iff (hon : ∀ rc ∈ l, OnFrame rc) (hnodup : l.Nodup) (p : Frame × Bool) :
    (l.foldl strikePixel p).2 = true ↔ p.2 = true ∨ ∃ rc ∈ l, framePixel p.1 rc.1 rc.2 = true := by
  induction l generalizing p with
  | nil => simp
  | cons a l ih =>
    obtain ⟨ha, hl⟩ := List.forall_mem_cons.mp hon
    obtain ⟨hnotMem, hrest⟩ := List.nodup_cons.mp hnodup
    have hsame : (∃ rc ∈ l, framePixel (strikePixel p a).1 rc.1 rc.2 = true) ↔
        ∃ rc ∈ l, framePixel p.1 rc.1 rc.2 = true :=
      exists_congr fun rc => and_congr_right fun hmem => by
        rw [framePixel_strikePixel_other p ha fun e => hnotMem (e ▸ hmem)]
    rw [List.foldl_cons, ih hl hrest, hsame, List.exists_mem_cons_iff, ← or_assoc]
    simp [strikePixel]

end Strikes

/-! ### The pixels a sprite lands on -/

/-- The pixel that the bit of row `ij.1` and column `ij.2` of a sprite at `(xc, yc)` lands on (R162). -/
def landing (xc yc : Nat) (ij : Nat × Nat) : Nat × Nat :=
  ((yc + ij.1) % Config.height, (xc + ij.2) % Config.width)

/-- The places of a sprite's 1-bits, in the order of R162's loops. -/
def spriteOnes (rows : List Byte) : List (Nat × Nat) :=
  (List.product (List.range rows.length) (List.range 8)).filter fun ij => spriteBit (rows.getD ij.1 0) ij.2

/-- The pixels that a sprite's 1-bits land on, in the order in which they are drawn. -/
def landings (xc yc : Nat) (rows : List Byte) : List (Nat × Nat) := (spriteOnes rows).map (landing xc yc)

theorem mem_spriteOnes {rows : List Byte} {i j : Nat} :
    (i, j) ∈ spriteOnes rows ↔ (i < rows.length ∧ j < 8) ∧ spriteBit (rows.getD i 0) j = true := by
  rw [spriteOnes, List.mem_filter, List.pair_mem_product, List.mem_range, List.mem_range]

theorem mem_landings {rows : List Byte} {xc yc r c : Nat} :
    (r, c) ∈ landings xc yc rows ↔ SpriteCovers rows xc yc r c := by
  simp only [landings, SpriteCovers, List.mem_map, Prod.exists, mem_spriteOnes, landing, Prod.mk.injEq, and_assoc,
    eq_comm (a := r), eq_comm (a := c)]

theorem onFrame_of_mem_landings {rows : List Byte} {xc yc : Nat} : ∀ rc ∈ landings xc yc rows, OnFrame rc := by
  intro rc h
  obtain ⟨ij, -, rfl⟩ := List.mem_map.mp h
  exact ⟨Nat.mod_lt _ (by decide), Nat.mod_lt _ (by decide)⟩

/-- A sprite of at most 32 rows and its 8 columns do not reach round to a pixel again. -/
theorem nodup_landings {rows : List Byte} (xc yc : Nat) (hlen : rows.length ≤ Config.height) :
    (landings xc yc rows).Nodup := by
  refine List.Nodup.map_on ?_ ((List.nodup_range.product List.nodup_range).filter _)
  rintro ⟨i, j⟩ h ⟨i', j'⟩ h' e
  obtain ⟨⟨hi, hj⟩, -⟩ := mem_spriteOnes.mp h
  obtain ⟨⟨hi', hj'⟩, -⟩ := mem_spriteOnes.mp h'
  obtain ⟨hr, hc⟩ := Prod.mk.inj e
  simp only [Config.height, Config.width] at hlen hr hc
  congr 1 <;> omega

/-! ### R162's loops strike those pixels -/

theorem blitRows_eq_foldl_blitRow (xc yc k : Nat) (rows : List Byte) (p : Frame × Bool) :
    blitRows xc yc k rows p =
      (List.range rows.length).foldl (fun p i => blitRow xc yc (k + i) (rows.getD i 0) p) p := by
  induction rows generalizing k p with
  | nil => rfl
  | cons b rows ih =>
    rw [blitRows, ih, List.length_cons, List.range_succ_eq_map, List.foldl_cons, List.foldl_map]
    simp only [List.getD_cons_succ, List.getD_cons_zero, Nat.succ_eq_add_one, Nat.add_zero, Nat.add_assoc,
      Nat.add_comm 1]

theorem blitRow_eq (xc yc i : Nat) (b : Byte) (p : Frame × Bool) :
    blitRow xc yc i b p =
      (List.range 8).foldl (fun q j => if spriteBit b j then strikePixel q (landing xc yc (i, j)) else q) p := rfl

theorem blitRows_eq_strikes (xc yc : Nat) (rows : List Byte) (p : Frame × Bool) :
    blitRows xc yc 0 rows p = (landings xc yc rows).foldl strikePixel p := by
  rw [blitRows_eq_foldl_blitRow, landings, spriteOnes, List.foldl_map, List.foldl_filter]
  simp only [List.product, List.foldl_flatMap, List.foldl_map, Nat.zero_add, blitRow_eq]

/-! ### DXYN -/

/-- The state `t` holds the sprite drawn over the frame buffer `f`, with the collision in VF (R162, R163). -/
structure SpriteDrawn (rows : List Byte) (xc yc : Nat) (f : Frame) (t : State) : Prop where
  flips : ∀ r c, SpriteCovers rows xc yc r c → framePixel t.fb r c = !framePixel f r c
  keeps : ∀ r c, ¬ SpriteCovers rows xc yc r c → framePixel t.fb r c = framePixel f r c
  collides : (∃ r c, SpriteCovers rows xc yc r c ∧ framePixel f r c = true) → t.reg vF = 1
  misses : (¬ ∃ r c, SpriteCovers rows xc yc r c ∧ framePixel f r c = true) → t.reg vF = 0

theorem spriteDrawn_of_blitRows {rows : List Byte} {xc yc : Nat} {f : Frame} {t : State}
    (hlen : rows.length ≤ Config.height) (hfb : t.fb = (blitRows xc yc 0 rows (f, false)).1)
    (hflag : t.reg vF = flagByte (blitRows xc yc 0 rows (f, false)).2) : SpriteDrawn rows xc yc f t := by
  rw [blitRows_eq_strikes] at hfb hflag
  have hon := onFrame_of_mem_landings (rows := rows) (xc := xc) (yc := yc)
  have hnodup := nodup_landings xc yc hlen
  have hcollide := strikes_collide_iff hon hnodup (f, false)
  simp only [Bool.false_eq_true, false_or, Prod.exists, mem_landings] at hcollide
  refine ⟨fun r c h => ?_, fun r c h => ?_, fun h => ?_, fun h => ?_⟩
  · rw [hfb]
    exact framePixel_strikes_of_mem hon hnodup (f, false) (mem_landings.mpr h)
  · rw [hfb]
    exact framePixel_strikes_of_notMem hon (f, false) (mt mem_landings.mp h)
  · rw [hflag, hcollide.mpr h]
    rfl
  · rw [hflag, Bool.eq_false_iff.mpr (mt hcollide.mp h)]
    rfl

theorem spriteRows_length_le (s : State) (n : Nibble) : (s.spriteRows n).length ≤ Config.height := by
  rw [State.spriteRows, Memory.readBytes_length]
  exact n.isLt.le.trans (by decide)

/-- R162, R163: with no rows or every row in memory, DXYN completes and draws its sprite. -/
theorem exec_drw_completes {s : State} (x y : RegName) {n : Nibble} (h : n = 0 ∨ s.i.toNat + n.toNat ≤ 4096) :
    Completes (exec (.drw x y n) s) s (OrPart (Parts [.reg vF]) AnyPixel)
      (SpriteDrawn (s.spriteRows n) (s.reg x).toNat (s.reg y).toNat s.fb) := by
  have hfits : n.toNat = 0 ∨ s.i.toNat + n.toNat ≤ Config.memSize := h.imp_left (congrArg BitVec.toNat)
  rw [exec, execDrw, firstOutOfBounds_eq, if_pos hfits]
  refine completes_endOk ((changes_setFlag s _).followedBy (changes_setFrame _ _)) ?_
  exact spriteDrawn_of_blitRows (spriteRows_length_le s n) rfl (reg_setFlag_vF s _)

/-- R162, R232: with a sprite byte out of memory, DXYN halts the core at the first such address. -/
theorem exec_drw_halts {s : State} (x y : RegName) {n : Nibble} (hn : n ≠ 0) (h : 4096 < s.i.toNat + n.toNat) :
    HaltsWith (exec (.drw x y n) s) s (.memOutOfBounds (max s.i.toNat 4096) (encode (.drw x y n)))
      (OrPart (Parts [.reg vF, .draws, .pc]) AnyPixel) := by
  have hout : ¬ (n.toNat = 0 ∨ s.i.toNat + n.toNat ≤ Config.memSize) :=
    not_or.mpr ⟨fun e => hn (BitVec.eq_of_toNat_eq e), Nat.not_le.mpr h⟩
  rw [exec, execDrw, firstOutOfBounds_eq, if_neg hout]
  have hframe := ((changes_setFlag s (Config.haltedFlag s.draws)).followedBy
    (changes_setFrame _ (Config.haltedFrame s.draws))).followedBy (changes_countDraw _)
  refine halts_raiseFatal (hframe.mono fun p hp => ?_)
  obtain (hflag | hpixel) | hdraws := hp
  · obtain rfl := List.mem_singleton.mp hflag
    exact .inl (by simp)
  · exact .inr hpixel
  · obtain rfl := List.mem_singleton.mp hdraws
    exact .inl (by simp)

/-! ### Drawing twice -/

/-- A sprite of zero bytes has no 1-bit. -/
theorem not_spriteCovers_of_zero {rows : List Byte} (h : ∀ b ∈ rows, b = 0) (xc yc r c : Nat) :
    ¬ SpriteCovers rows xc yc r c := by
  rintro ⟨i, j, hi, -, hbit, -⟩
  rw [List.getD_eq_getElem _ _ hi, h _ (List.getElem_mem hi)] at hbit
  simp [spriteBit] at hbit

/-- R164: a sprite drawn over its own drawing restores the first frame buffer. -/
theorem SpriteDrawn.twice_restores {rows : List Byte} {xc yc : Nat} {f : Frame} {t u : State}
    (h : SpriteDrawn rows xc yc f t) (h' : SpriteDrawn rows xc yc t.fb u) (r c : Nat) :
    framePixel u.fb r c = framePixel f r c := by
  by_cases hcov : SpriteCovers rows xc yc r c
  · rw [h'.flips r c hcov, h.flips r c hcov, Bool.not_not]
  · rw [h'.keeps r c hcov, h.keeps r c hcov]

/-- A pixel under a 1-bit is 1 after the draw exactly when it was 0 before it. -/
theorem SpriteDrawn.collision_iff {rows : List Byte} {xc yc : Nat} {f : Frame} {t : State}
    (h : SpriteDrawn rows xc yc f t) :
    (∃ r c, SpriteCovers rows xc yc r c ∧ framePixel t.fb r c = true) ↔
      ∃ r c, SpriteCovers rows xc yc r c ∧ framePixel f r c = false :=
  exists_congr fun r => exists_congr fun c => and_congr_right fun hcov => by
    rw [h.flips r c hcov, Bool.not_eq_true']

/-- A sprite of zero bytes collides with nothing. -/
theorem SpriteDrawn.flag_of_zero {rows : List Byte} {xc yc : Nat} {f : Frame} {t : State}
    (h : SpriteDrawn rows xc yc f t) (hzero : ∀ b ∈ rows, b = 0) : t.reg vF = 0 :=
  h.misses fun ⟨r, c, hcov, _⟩ => not_spriteCovers_of_zero hzero xc yc r c hcov

/-! ### The statements -/

/-- Settles O33: CLS is one write of the frame buffer. -/
theorem clearZeroesEveryPixel : Obligations.ClearZeroesEveryPixel := fun s =>
  completes_endOk (changes_setFrame s clearFrame) framePixel_clearFrame

/-- Settles O34: the loops of R162 strike each pixel under a 1-bit once, whether or not the sprite wraps. -/
theorem drawFlipsTheSpritesPixels : Obligations.DrawFlipsTheSpritesPixels := by
  rintro x y n s _ _ rfl rfl
  refine ⟨fun h => (exec_drw_completes x y h).imp fun t hdrawn => ?_, exec_drw_halts x y⟩
  exact ⟨fun r c _ _ => ⟨hdrawn.flips r c, hdrawn.keeps r c⟩, hdrawn.collides, hdrawn.misses⟩

/-- Settles O35: both draws strike the same pixels, the second on the frame buffer that the first left. -/
theorem drawingTwiceRestores : Obligations.DrawingTwiceRestores := by
  rintro x y n s t t' _ _ _ rfl rfl rfl hfits hexec hfb hi hrows hx hy
  obtain ⟨_, hexec', -, hfirst, -⟩ := exec_drw_completes x y hfits
  cases hexec.symm.trans hexec'
  obtain ⟨u, hu, hok, hsecond, -⟩ := exec_drw_completes (s := t') x y (hi ▸ hfits)
  rw [hrows, hx, hy, hfb] at hsecond
  exact ⟨u, hu, hok, hfirst.twice_restores hsecond, fun h => hsecond.collides (hfirst.collision_iff.mpr h),
    fun h => hsecond.misses (mt hfirst.collision_iff.mp h),
    fun hzero => ⟨hfirst.flag_of_zero hzero, hsecond.flag_of_zero hzero⟩⟩

end Sys2Proof.Machine
end

section
/-! SUPPORT. Keypad and timers (43_keypad_timers.md): the key a scan finds, what FX0A does with and without one, the
moves that change keys and timers, and the family's statements. -/

namespace Sys2Proof.Machine

/-! ### The scan of the keypad -/

section Scan

variable {s : State}

theorem firstKey_of_allReleased (h : ∀ k, s.key k = false) : s.firstKey = none := by
  simp [State.firstKey, h]

/-- R182: the scan finds the pressed key below which no key is pressed. -/
theorem firstKey_of_lowest {k : Nibble} (hk : s.key k = true)
    (hlow : ∀ j : Nibble, j.toNat < k.toNat → s.key j = false) : s.firstKey = some k := by
  have hfound : (List.range 16).find? (s.key ∘ BitVec.ofNat 4) = some k.toNat := by
    refine List.find?_range_eq_some.mpr ⟨by simpa using hk, List.mem_range.mpr k.isLt, fun j hj => ?_⟩
    have hj4 : (BitVec.ofNat 4 j).toNat = j := Nat.mod_eq_of_lt (hj.trans k.isLt)
    simp [hlow (BitVec.ofNat 4 j) (hj4.symm ▸ hj)]
  rw [State.firstKey, List.find?_map, hfound, Option.map_some, BitVec.ofNat_toNat, BitVec.setWidth_eq]

/-- R182, R242: after the press of `k` on a released keypad, `k` is the key the scan finds. -/
theorem firstKey_setKey (h : ∀ j, s.key j = false) (k : Nibble) : (setKey k true s).firstKey = some k := by
  refine firstKey_of_lowest (by rw [key_setKey, if_pos rfl]) fun j hj => ?_
  have hne : j ≠ k := fun e => hj.ne (congrArg BitVec.toNat e)
  rw [key_setKey, if_neg hne, h]

end Scan

/-! ### FX0A -/

section WaitForKey

variable {s : State} (x : RegName)

theorem exec_ldVxK_of_allReleased (h : ∀ k, s.key k = false) :
    exec (.ldVxK x) s = endOk (s.setPC (s.pc - 2)) := by
  rw [exec, execLdVxK, firstKey_of_allReleased h]

/-- R182: FX0A takes the key the scan finds and changes nothing but its register. -/
theorem exec_ldVxK_completes {k : Nibble} (h : s.firstKey = some k) :
    Completes (exec (.ldVxK x) s) s (Parts [.reg x]) (fun t => (t.reg x).toNat = k.toNat) := by
  rw [exec, execLdVxK, h]
  refine (setReg_completes s x (k.setWidth 8)).imp fun t ht => ?_
  rw [ht, BitVec.toNat_setWidth_of_le (by decide)]

/-- R102, R182: the rewind takes back exactly the fetch's advance, so FX0A without a key leaves the state it was fetched
in. -/
theorem exec_ldVxK_postFetch (h : ∀ k, s.key k = false) : exec (.ldVxK x) s.postFetch = endOk s := by
  have hback : s.pc + 2 - 2 = s.pc := BitVec.add_sub_cancel _ _
  have hsame : s.postFetch.setPC (s.pc + 2 - 2) = s := by rw [hback]; rfl
  rw [exec_ldVxK_of_allReleased (s := s.postFetch) x h, State.postFetch_pc, hsame]

end WaitForKey

/-! ### The key skips -/

/-- R180, R181: a byte up to 15 is the index of the key it numbers. -/
theorem withKeyIndex_of_key {b : Byte} {k : Nibble} (h : k.toNat = b.toNat) (w : Word) (s : State)
    (run : Nibble → StepResult) : withKeyIndex b w s run = run k := by
  have hkey : b.setWidth 4 = k := by bv_omega
  rw [withKeyIndex_low w s run (by omega), hkey]

/-- R233: a byte above 15 halts the core, whatever the instruction would do with a key. -/
theorem withKeyIndex_halts {b : Byte} (h : 15 < b.toNat) (w : Word) (s : State) (run : Nibble → StepResult) :
    HaltsWith (withKeyIndex b w s run) s (.keyIndexOutOfRange b w) (Parts [.pc]) := by
  rw [withKeyIndex_high w s run h]
  exact halts_raiseFatal (.refl _ s)

theorem skipIf_not_completes (c : Bool) (s : State) :
    Completes (skipIf (!c) s) s (Parts [.pc]) (fun t => t.pc = if c then s.pc else s.pc + 2) := by
  cases c
  · exact skipIf_completes true s
  · exact skipIf_completes false s

/-! ### Moves -/

section Moves

variable {s : State}

/-- R242: the move is the operation at the head of the agenda, in the state with that entry gone. -/
theorem step_of_agenda {op : HostOp} {rest : List HostOp} (h : s.agenda = op :: rest) :
    step s = hostOp op (s.setAgenda rest) := by
  rw [step, nextMove, h]

/-- R100, R102: the step of a core that can fetch is the decoded instruction's meaning in the post-fetch state. -/
theorem step_of_decode {i : Instr} (hmoves : s.CoreMoves) (hfetch : s.CanFetch)
    (hdecode : decode s.fetchWord = .instr i) : step s = exec i s.stepCalled.postFetch :=
  (stepRunsTheDecodedInstruction s i s.fetchWord hmoves hfetch (toNat_fetchWord s) hdecode).1

/-- R101, R182: the step of a core that fetches FX0A and finds a key takes it, and PC is past the FX0A. -/
theorem step_takes_key {x : RegName} {k : Nibble} (hmoves : s.CoreMoves) (hfetch : s.CanFetch)
    (hdecode : decode s.fetchWord = .instr (.ldVxK x)) (hkey : s.firstKey = some k) :
    ∃ t, step s = .next t ∧ t.outcome = some .ok ∧ (t.reg x).toNat = k.toNat ∧ t.pc.toNat = s.pc.toNat + 2 ∧
      ChangesOnly (Parts [.pc, .reg x]) s.stepCalled t := by
  obtain ⟨t, hexec, hok, hreg, hframe⟩ := exec_ldVxK_completes (s := s.stepCalled.postFetch) x hkey
  have hpc : t.pc = s.postFetch.pc := hframe .pc (by simp)
  refine ⟨t, (step_of_decode hmoves hfetch hdecode).trans hexec, hok, hreg, ?_, ?_⟩
  · rw [hpc, toNat_postFetch_pc hfetch.2]
  · exact ((changes_setPC s.stepCalled _).followedBy hframe).mono (by simp)

theorem changes_setKey (s : State) (k : Nibble) (p : Bool) : ChangesOnly (Parts [.key k]) s (setKey k p s) := by
  intro part hpart
  cases part with
  | key j =>
    have hj : j ≠ k := fun e => hpart (by simp [e])
    simp [Part.Same, key_setKey, hj]
  | _ => simp [Part.Same]

theorem changes_tick (s : State) : ChangesOnly (Parts [.delay, .sound]) s (tick s) :=
  ((changes_setDelay s _).followedBy (changes_setSound _ _)).mono (by simp)

/-- R187: a timer at 0 stays there, as a truncated subtraction does. -/
theorem toNat_countDown (b : Byte) : (countDown b).toNat = b.toNat - 1 := by
  unfold countDown
  split <;> bv_omega

end Moves

/-! ### The statements -/

/-- Settles O36: each is a skip on the level of the key numbered, and a larger number halts either. -/
theorem keySkipsReadTheKeypad : Obligations.KeySkipsReadTheKeypad := by
  intro x s
  simp only [exec, execSkp, execSknp]
  refine ⟨fun k hk => ?_, fun h => ⟨withKeyIndex_halts h _ s _, withKeyIndex_halts h _ s _⟩⟩
  rw [withKeyIndex_of_key hk, withKeyIndex_of_key hk]
  exact ⟨skipIf_completes (s.key k) s, skipIf_not_completes (s.key k) s⟩

/-- Settles O37: the scan finds the lowest pressed key, or none and PC goes back. -/
theorem waitForKeyTakesTheLowest : Obligations.WaitForKeyTakesTheLowest := by
  refine fun x s => ⟨fun k hk hlow => exec_ldVxK_completes x (firstKey_of_lowest hk hlow), fun h => ?_⟩
  rw [exec_ldVxK_of_allReleased x h]
  exact completes_endOk (changes_setPC s _) rfl

/-- Settles O38: the step is FX0A's meaning in the post-fetch state, which takes back the fetch's advance. -/
theorem awaitingKeyStepChangesNothing : Obligations.AwaitingKeyStepChangesNothing := by
  intro x s hmoves hfetch ⟨hdecode, hreleased⟩
  refine ⟨s.stepCalled.setOutcome .ok, ?_, rfl, changes_setOutcome _ _ _, hdecode, hreleased⟩
  calc step s = exec (.ldVxK x) s.stepCalled.postFetch := step_of_decode hmoves hfetch hdecode
    _ = endOk s.stepCalled := exec_ldVxK_postFetch x hreleased

/-- Settles O39: the first move is the press, after which `k` is the only key down; the second is the step that takes
it. -/
theorem keyPressEndsTheWait : Obligations.KeyPressEndsTheWait := by
  intro x s k hfetch ⟨hdecode, hreleased⟩ hagenda
  obtain ⟨u, hstep, hok, hreg, hpc, hframe⟩ := step_takes_key (s := setKey k true (s.setAgenda [])) (.inl rfl)
    hfetch hdecode (firstKey_setKey hreleased k)
  refine ⟨_, u, step_of_agenda hagenda, hstep, hok, hreg, hpc, ?_⟩
  have hpress := (changes_setAgenda s []).followedBy (changes_setKey _ k true)
  exact ((hpress.followedBy (changes_setAgenda _ _)).followedBy hframe).mono (by simp [or_imp, forall_and])

/-- Settles O40: each is one write of its destination. -/
theorem timerInstructionsMoveTheirValue : Obligations.TimerInstructionsMoveTheirValue := fun x s =>
  ⟨setReg_completes s x s.dt, completes_endOk (changes_setDelay s (s.reg x)) rfl,
    completes_endOk (changes_setSound s (s.reg x)) rfl⟩

/-- Settles O41: the move is the tick, which counts down DT and ST and touches nothing else. -/
theorem tickCountsBothTimersDown : Obligations.TickCountsBothTimersDown := by
  intro s rest h
  refine ⟨tick (s.setAgenda rest), step_of_agenda h, toNat_countDown s.dt, toNat_countDown s.st, rfl, rfl, ?_⟩
  exact ((changes_setAgenda s rest).followedBy (changes_tick _)).mono (by simp)

end Sys2Proof.Machine
end

section
/-! SUPPORT. Index register and memory (44_index_memory.md): what the two loads of `I` leave in it, what FX33, FX55 and
FX65 do within memory and past its end, and the family's statements. -/

namespace Sys2Proof.Machine

/-! ### Frames of a fatal outcome -/

/-- Log 9: the statements leave open whether a halted transfer keeps PC, which no meaning here writes. -/
theorem HaltsWith.allowingPC {r : StepResult} {s : State} {f : Fatal} {written : Part → Prop}
    (h : HaltsWith r s f (OrPart written (Parts [.draws]))) :
    HaltsWith r s f (OrPart written (Parts [.draws, .pc])) := by
  obtain ⟨t, hr, hhalted, houtcome, hframe⟩ := h
  exact ⟨t, hr, hhalted, houtcome, hframe.mono fun p => .imp_right (.imp_right (by simp +contextual))⟩

/-! ### Loads of `I` -/

/-- R202, D14: five times a byte fits in 16 bits, so `I` takes the whole product. -/
theorem toNat_glyphAddress (b : Byte) : (BitVec.ofNat 16 (Config.glyphStride * b.toNat)).toNat = 5 * b.toNat :=
  Nat.mod_eq_of_lt (show 5 * b.toNat < 2 ^ 16 by omega)

/-- Settles O44: each is one write of `I`, with a value that fits in 16 bits. -/
theorem indexLoads : Obligations.IndexLoads := fun nnn x s =>
  ⟨completes_endOk (changes_setIndex s _) (toNat_zextAddr nnn),
    completes_endOk (changes_setIndex s _) (toNat_glyphAddress (s.reg x))⟩

/-! ### FX33 -/

/-- Settles O46: FX33 is a store of three bytes upward from `I`, and these are the digits. -/
theorem bcdStoresThreeDigits : Obligations.BcdStoresThreeDigits := by
  rintro x s v hm rfl
  refine ⟨fun h => ?_, fun h => (storeAtIndex_halts _ (List.cons_ne_nil _ _) h).allowingPC⟩
  refine (storeAtIndex_completes (bytes := bcdDigits (s.reg x)) hm _ h).imp fun t hread => ?_
  have digit {n : Nat} (k : Nat) (hk : k < 3) (hbyte : (bcdDigits (s.reg x))[k] = BitVec.ofNat 8 n) (hn : n < 256) :
      (t.mem.read (s.i.toNat + k)).toNat = n := by
    rw [hread k hk, hbyte]
    exact Nat.mod_eq_of_lt hn
  exact ⟨digit 0 (by decide) rfl (by omega), digit 1 (by decide) rfl (by omega), digit 2 (by decide) rfl (by omega)⟩

/-! ### FX55 and FX65 -/

section BlockTransfers

variable {s : State} {x : RegName}

/-- R204: FX55 within memory stores each register, by its name, at its number above `I`. -/
theorem exec_storeRegs_stores (hm : s.mem.wf = true) (h : s.i.toNat + (x.toNat + 1) ≤ Config.memSize) :
    Completes (exec (.storeRegs x) s) s (BytesAt s.i.toNat (x.toNat + 1))
      (fun t => ∀ r : RegName, r.toNat ≤ x.toNat → t.mem.read (s.i.toNat + r.toNat) = s.reg r) :=
  (exec_storeRegs_completes hm h).imp fun t hread r hr => by simpa using hread r.toNat hr

/-- R204, R232: FX55 past the end of memory halts the core. -/
theorem exec_storeRegs_halts (h : Config.memSize < s.i.toNat + (x.toNat + 1)) :
    HaltsWith (exec (.storeRegs x) s) s (.memOutOfBounds (max s.i.toNat Config.memSize) (encode (.storeRegs x)))
      (OrPart (BytesAt s.i.toNat (x.toNat + 1)) (Parts [.draws])) := by
  have hlen := s.regsUpTo_length x
  rw [← hlen] at h ⊢
  exact storeAtIndex_halts _ (List.ne_nil_of_length_eq_add_one hlen) h

/-- R205: FX65 within memory loads each register, by its name, from its number above `I`. -/
theorem exec_loadRegs_loads (h : s.i.toNat + (x.toNat + 1) ≤ Config.memSize) :
    Completes (exec (.loadRegs x) s) s (RegsBelow (x.toNat + 1))
      (fun t => ∀ r : RegName, r.toNat ≤ x.toNat → t.reg r = s.mem.read (s.i.toNat + r.toNat)) :=
  (loadAtIndex_completes _ h).imp fun _ hload r hr => hload r (Nat.lt_succ_of_le hr)

end BlockTransfers

/-- Settles O47: FX55 is a store of the registers upward from `I`. -/
theorem blockStoreWritesV0ToVx : Obligations.BlockStoreWritesV0ToVx := fun _ _ hm =>
  ⟨exec_storeRegs_stores hm, fun h => (exec_storeRegs_halts h).allowingPC⟩

/-- Settles O48: FX65 is a load of the registers upward from `I`. -/
theorem blockLoadReadsV0ToVx : Obligations.BlockLoadReadsV0ToVx := fun x _ =>
  ⟨exec_loadRegs_loads, fun h => (loadAtIndex_halts _ x.toNat.succ_pos h).allowingPC⟩

/-- Settles O49: the load reads the bytes that the store wrote. -/
theorem loadAfterStoreGivesTheRegistersBack : Obligations.LoadAfterStoreGivesTheRegistersBack := by
  intro x s t u hm hfits hstore hmem hi
  obtain ⟨t', hstore', -, hread, -⟩ := exec_storeRegs_stores hm hfits
  obtain rfl : t' = t := Host.Outcome.next.inj (hstore'.symm.trans hstore)
  obtain ⟨u', hload, -, hreg, -⟩ := exec_loadRegs_loads (s := u) (hi ▸ hfits)
  refine ⟨u', hload, fun r hr => ?_⟩
  calc u'.reg r = u.mem.read (u.i.toNat + r.toNat) := hreg r hr
    _ = t'.mem.read (s.i.toNat + r.toNat) := by rw [hmem, hi]
    _ = s.reg r := hread r hr

end Sys2Proof.Machine
end

section
/-! SUPPORT. Exceptions (60_exceptions.md): the step whose fetch is out of bounds, and the family's statements. -/

namespace Sys2Proof.Machine

/-- R101, R231: a core whose fetch would read past memory halts and does nothing else. -/
theorem instrStep_of_fetchOutOfBounds {s : State} (hrun : s.Running) (h : 4094 < s.pc.toNat) :
    instrStep s = raiseFatal (.pcOutOfBounds s.pc) s := by
  obtain ⟨f, hhalted, -⟩ | ⟨-, -, e⟩ | ⟨-, hlow, -⟩ := instrStep_cases s
  · exact absurd (hhalted.symm.trans hrun) (Option.some_ne_none f)
  · exact e
  · omega

/-- Settles O15: the move is a step of the core, which halts before it fetches anything. -/
theorem fetchOutOfBoundsHalts : Obligations.FetchOutOfBoundsHalts := by
  intro s hmoves hrun hpc
  rw [step_of_coreMoves hmoves, instrStep_of_fetchOutOfBounds (s := s.stepCalled) hrun hpc]
  exact halts_raiseFatal (.refl _ s.stepCalled)

/-- Settles O42: the move is the key change, in the state with that entry of the agenda gone. -/
theorem setKeySetsOneKey : Obligations.SetKeySetsOneKey := by
  intro s k pressed rest h
  refine ⟨setKey k pressed (s.setAgenda rest), step_of_agenda h, ?_, rfl, rfl, ?_⟩
  · rw [key_setKey, if_pos rfl]
  · exact ((changes_setAgenda s rest).followedBy (changes_setKey _ k pressed)).mono (by simp)

end Sys2Proof.Machine
end

section
/-! SUPPORT. Reset and hazards (70_reset_and_hazards.md): calls and returns as brackets around a run, and the operands
that do not depend on the dialect. -/

namespace Sys2Proof.Machine

/-! ### Runs of meanings -/

section Runs

variable {s t : State} {is : List Instr}

theorem execAll_cons {i : Instr} (h : exec i s = .next t) (hok : t.outcome = some .ok) :
    execAll (i :: is) s = execAll is t := by
  rw [execAll, h]
  exact if_pos hok

theorem execAll_append (is js : List Instr) (s : State) :
    execAll (is ++ js) s = (execAll is s).bind (execAll js) := by
  induction is generalizing s with
  | nil => rfl
  | cons i is ih =>
    rw [List.cons_append, execAll, execAll]
    cases exec i s with
    | next t => simp only [ih, apply_ite (Option.bind · (execAll js)), Option.bind_none]
    | fault _ | refused _ => rfl

/-! ### Calls and returns -/

/-- A frame gets by without the parts that read as before. -/
theorem ChangesOnly.of_same {f g : Part → Prop} (h : ChangesOnly f s t) (hsame : ∀ p, f p → p.Same s t) :
    ChangesOnly g s t := by
  intro p _
  by_cases hp : f p
  · exact hsame p hp
  · exact h p hp

/-- The meanings of the list run from `s` to outcome `Ok` throughout and leave the whole machine as it was. -/
def Restores (is : List Instr) (s : State) : Prop := ∃ t, execAll is s = some t ∧ ChangesOnly (Parts []) s t

/-- R105, R107: what CALL pushed, RET finds again after a run that restores the state between them. -/
theorem restores_call_ret (nnn : Imm12) (hroom : s.stack.length < 16)
    (hbody : ∀ t, t.stack.length = s.stack.length + 1 → Restores is t) :
    Restores (.call nnn :: (is ++ [.ret])) s := by
  obtain ⟨hpush, -⟩ := callPushesOrIsRejected
  obtain ⟨hpop, -⟩ := returnPopsOrIsRejected
  obtain ⟨called, hcall, hcallOk, ⟨-, hpushed⟩, hcallFrame⟩ := hpush nnn s hroom
  obtain ⟨ran, hrun, hrunFrame⟩ := hbody called (by simp [hpushed])
  have hstack : ran.stack = s.stack ++ [s.pc] := (hrunFrame .stack (by simp)).trans hpushed
  obtain ⟨returned, hret, hretOk, ⟨hpc, hpopped⟩, hretFrame⟩ := hpop ran s.stack s.pc hstack
  refine ⟨returned, ?_, ?_⟩
  · rw [execAll_cons hcall hcallOk, execAll_append, hrun, Option.bind_some, execAll_cons hret hretOk, execAll]
  · have hframe : ChangesOnly (Parts [.pc, .stack]) s returned :=
      (hcallFrame.trans (hrunFrame.mono (by simp))).trans hretFrame
    exact hframe.of_same (by simp [Part.Same, hpc, hpopped])

/-- The first call and the last return bracket the calls and returns between them. -/
theorem restores_calls_rets (targets : List Imm12) (s : State) (hroom : s.stack.length + targets.length ≤ 16) :
    Restores (targets.map .call ++ List.replicate targets.length .ret) s := by
  induction targets generalizing s with
  | nil => exact ⟨s, rfl, .refl _ s⟩
  | cons nnn targets ih =>
    rw [List.length_cons] at hroom
    have hbracket := restores_call_ret (s := s) nnn (by omega) fun t ht => ih t (by omega)
    rwa [List.append_assoc, ← List.replicate_succ'] at hbracket

end Runs

/-- Settles O23, by induction on the targets: each call is undone by the return that mirrors it. -/
theorem callsThenReturnsRestore : Obligations.CallsThenReturnsRestore := restores_calls_rets

/-! ### Operands that do not depend on the dialect -/

section EqualOperands

variable {s : State} {x y : RegName} {nnn : Imm12}

theorem shiftSource_of_eq (h : s.reg x = s.reg y) : s.shiftSource x y = s.reg x := by
  rw [State.shiftSource, ← h, ite_self]

theorem jumpOffset_of_eq (h : s.reg (jumpReg nnn) = s.reg 0) : s.jumpOffset nnn = s.regExt 0 := by
  rw [State.jumpOffset, State.regExt, h, ← State.regExt, ite_self]

/-- R112: `w[11:8]` as arithmetic on NNN. -/
theorem jumpReg_eq (nnn : Imm12) : jumpReg nnn = BitVec.ofNat 4 (nnn.toNat / 256) := by
  apply BitVec.eq_of_toNat_eq
  simp [jumpReg, BitVec.extractLsb'_toNat, Nat.shiftRight_eq_div_pow]

@[simp] theorem State.withDialect_reg (s : State) (q : Bool) (r : RegName) : (s.withDialect q).reg r = s.reg r := rfl

theorem shiftSource_withDialect (q : Bool) (h : s.reg x = s.reg y) :
    (s.withDialect q).shiftSource x y = s.shiftSource x y := by
  rw [shiftSource_of_eq h, shiftSource_of_eq (s := s.withDialect q) h, State.withDialect_reg]

theorem jumpOffset_withDialect (q : Bool) (h : s.reg (jumpReg nnn) = s.reg 0) :
    (s.withDialect q).jumpOffset nnn = s.jumpOffset nnn := by
  rw [jumpOffset_of_eq h, jumpOffset_of_eq (s := s.withDialect q) h]
  rfl

theorem endWithFlag_withDialect (x : RegName) (result flag : Byte) (s : State) (q : Bool) :
    endWithFlag x result flag (s.withDialect q) = mapNext (·.withDialect q) (endWithFlag x result flag s) := rfl

theorem endOk_setPC_withDialect (a : Word) (s : State) (q : Bool) :
    endOk ((s.withDialect q).setPC a) = mapNext (·.withDialect q) (endOk (s.setPC a)) := rfl

end EqualOperands

/-- Settles O60: the dialect only selects between the two operands, so with equal operands it selects nothing. -/
theorem dialectsAgreeOnEqualOperands : Obligations.DialectsAgreeOnEqualOperands := by
  intro x y nnn s q
  refine ⟨fun hxy => ⟨?_, ?_⟩, fun hjump => ?_⟩
  · rw [exec, execShr, shiftSource_withDialect q hxy, endWithFlag_withDialect, exec, execShr]
  · rw [exec, execShl, shiftSource_withDialect q hxy, endWithFlag_withDialect, exec, execShl]
  · rw [← jumpReg_eq] at hjump
    rw [exec, execJpV0, jumpOffset_withDialect q hjump, endOk_setPC_withDialect, exec, execJpV0]

end Sys2Proof.Machine
end

section
/-! SUPPORT. The statements that close the model: which words the decoder does not know, construction and its invariant,
how the halt mark is set and kept, and the instructions SYS, BNNN and FX1E. -/

namespace Sys2Proof

/-! ### The words without an instruction -/

/-- R76: where a decoded outcome is unknown, `w` is in the list of unknown opcodes. -/
def Decoded.Listed (w : Word) (d : Decoded) : Prop := ∀ v, d = .unknown v → Word.isUnknown w = true

section Listed

variable {w : Word}

theorem listed_instr {i : Instr} : Decoded.Listed w (.instr i) := nofun

theorem listed_unknown {v : Word} (h : Word.isUnknown w = true) : Decoded.Listed w (.unknown v) := fun _ _ => h

theorem listed_ite_n {i : Instr} (hop : Word.op w = 0x5#4 ∨ Word.op w = 0x9#4) :
    Decoded.Listed w (if Word.n w = 0#4 then .instr i else .unknown w) := by
  split
  · exact listed_instr
  · next hn =>
    refine listed_unknown ?_
    obtain hop | hop := hop <;> simp [Word.isUnknown, hop, hn]

/-- R74: nibble3 of a major opcode 8 is a minor opcode of the map or one of the seven that R76 lists. -/
theorem arith_minor_cases : ∀ n : Nibble, n ∈ [0x0#4, 0x1#4, 0x2#4, 0x3#4, 0x4#4, 0x5#4, 0x6#4, 0x7#4, 0xE#4] ∨
    n ∈ [0x8#4, 0x9#4, 0xA#4, 0xB#4, 0xC#4, 0xD#4, 0xF#4] := by decide

theorem decodeArith_listed (hop : Word.op w = 0x8#4) : Decoded.Listed w (decodeArith w) := by
  unfold decodeArith
  split
  case h_10 =>
    have hn := (arith_minor_cases (Word.n w)).resolve_left (by simp_all)
    exact listed_unknown (by simpa [Word.isUnknown, hop] using hn)
  all_goals exact listed_instr

theorem decodeKeys_listed (hop : Word.op w = 0xE#4) : Decoded.Listed w (decodeKeys w) := by
  unfold decodeKeys
  split
  case h_3 => exact listed_unknown (by simp_all [Word.isUnknown])
  all_goals exact listed_instr

theorem decodeMisc_listed (hop : Word.op w = 0xF#4) : Decoded.Listed w (decodeMisc w) := by
  unfold decodeMisc
  split
  case h_10 => exact listed_unknown (by simp_all [Word.isUnknown])
  all_goals exact listed_instr

theorem decode_listed (w : Word) : Decoded.Listed w (decode w) := by
  unfold decode
  split
  case h_1 => split_ifs <;> exact listed_instr
  case h_6 hop => exact listed_ite_n (.inl hop)
  case h_9 hop => exact decodeArith_listed hop
  case h_10 hop => exact listed_ite_n (.inr hop)
  case h_15 hop => exact decodeKeys_listed hop
  case h_16 =>
    have hop : Word.op w = 0xF#4 := by have hcases := nibble_cases (Word.op w); simp_all
    exact decodeMisc_listed hop
  all_goals exact listed_instr

end Listed

/-- Settles O9: a listed word is the word of no instruction, and each branch that gives up on a word has excluded every
minor opcode its list leaves out. -/
theorem unknownWordsAreThoseListed : Obligations.UnknownWordsAreThoseListed := by
  refine fun w => ⟨decode_of_isUnknown, fun h => ?_⟩
  cases hd : decode w with
  | instr i => exact ⟨i, rfl⟩
  | unknown v => cases h.symm.trans (decode_listed w v hd)

end Sys2Proof

namespace Sys2Proof.Machine

/-! ### Construction -/

theorem construct_of_overlong {rom : List Byte} (font : Vector Byte 80) (quirk : Bool) (h : 3584 < rom.length) :
    construct rom font quirk = none := if_pos h

/-- Settles O2: the length check comes first. -/
theorem overlongRomIsRefused : Obligations.OverlongRomIsRefused := fun _ font quirk => construct_of_overlong font quirk

/-- Settles O3: no byte is stored over the initial state. -/
theorem resetIsTheConstructionOfAnEmptyRom : Obligations.ResetIsTheConstructionOfAnEmptyRom :=
  construct_of_fits conventionalFont false (Nat.zero_le _)

/-- The invariant holds of the state construction starts from. -/
theorem initial_inv (font : Vector Byte 80) (quirk : Bool) : (State.initial font quirk).Inv where
  memory := initial_mem_wf font quirk
  stack := ⟨Nat.zero_le _, nofun⟩
  pc := show 512 ≤ 0x10FE by decide

/-- Settles O5: a constructed machine is the initial state with the ROM stored, which keeps memory canonical. -/
theorem invHoldsAfterConstruction : Obligations.InvHoldsAfterConstruction := by
  intro rom font quirk s h
  have hinit := initial_inv font quirk
  obtain hlong | hfits := Nat.lt_or_ge 3584 rom.length
  · cases (construct_of_overlong font quirk hlong).symm.trans h
  · obtain rfl := Option.some.inj ((construct_of_fits font quirk hfits).symm.trans h)
    exact { memory := Memory.wf_writeBytes rom hinit.memory _, stack := hinit.stack, pc := hinit.pc }

/-- Settles O4: reset is a construction. -/
theorem invHoldsAtReset : Obligations.InvHoldsAtReset :=
  invHoldsAfterConstruction _ _ _ _ resetIsTheConstructionOfAnEmptyRom

/-! ### The halt mark -/

/-- Settles O17: a halted core has no step, and the host's operations leave the mark. -/
theorem haltMarkIsNeverCleared : Obligations.HaltMarkIsNeverCleared := by
  intro s t f h hf
  obtain ⟨hmoves, -⟩ | ⟨k, p, rest, -, rfl⟩ | ⟨rest, -, rfl⟩ := step_next_cases h
  · cases (haltedCoreHasNoStep s f hmoves hf).symm.trans h
  · exact hf
  · exact hf

/-- Log 9: if `t` has a fatal outcome, its PC is that of `s` and its halt mark is that outcome. -/
def HaltsInPlace (s t : State) : Prop := ∀ f, t.outcome = some (.fatal f) → t.pc = s.pc ∧ t.halted = some f

section HaltsInPlace

variable {s t : State}

theorem haltsInPlace_ok : HaltsInPlace s (t.setOutcome .ok) := nofun

theorem haltsInPlace_recoverable {kind : RecoverableKind} {w : Word} :
    HaltsInPlace s (t.setOutcome (.recoverable kind w)) := nofun

theorem haltsInPlace_fatal {f : Fatal} (hpc : t.pc = s.pc) :
    HaltsInPlace s ((t.setHalted f).setOutcome (.fatal f)) := by
  rintro _ ⟨⟩
  exact ⟨hpc, rfl⟩

theorem exec_ret_haltsInPlace : Ensures (exec .ret s) (HaltsInPlace s) := by
  obtain h | ⟨below, a, h⟩ := s.stack.eq_nil_or_concat'
  · rw [exec_ret_of_empty h]
    exact ensures_next haltsInPlace_recoverable
  · rw [exec_ret_of_append h]
    exact ensures_endOk haltsInPlace_ok

theorem exec_call_haltsInPlace (nnn : Imm12) : Ensures (exec (.call nnn) s) (HaltsInPlace s) := by
  obtain h | h := Nat.lt_or_ge s.stack.length 16
  · rw [exec_call_of_room nnn h]
    exact ensures_endOk haltsInPlace_ok
  · rw [exec_call_of_full nnn h]
    exact ensures_next haltsInPlace_recoverable

/-- The instructions that can halt the core do so in a state that still has the PC they executed with; all others end
with outcome Ok or a recoverable error. -/
theorem exec_haltsInPlace (i : Instr) (s : State) : Ensures (exec i s) (HaltsInPlace s) := by
  cases i with
  | skp _ | sknp _ =>
    exact ensures_withKeyIndex (fun _ => haltsInPlace_fatal rfl) fun _ => ensures_skipIf haltsInPlace_ok haltsInPlace_ok
  | drw _ _ _ => exact ensures_drw (fun _ _ => haltsInPlace_ok) fun _ _ _ => haltsInPlace_fatal rfl
  | ldB _ | storeRegs _ => exact ensures_storeAtIndex haltsInPlace_ok fun _ _ => haltsInPlace_fatal rfl
  | loadRegs _ => exact ensures_loadAtIndex haltsInPlace_ok fun _ _ => haltsInPlace_fatal rfl
  | ret => exact exec_ret_haltsInPlace
  | call nnn => exact exec_call_haltsInPlace nnn
  | seImm _ _ | sneImm _ _ | seReg _ _ | sneReg _ _ => exact ensures_skipIf haltsInPlace_ok haltsInPlace_ok
  | ldVxK _ => exact ensures_ldVxK (fun _ => haltsInPlace_ok) haltsInPlace_ok
  | addI _ => exact ensures_addI (fun _ _ => haltsInPlace_ok) fun _ => haltsInPlace_ok
  | _ => exact ensures_endOk haltsInPlace_ok

end HaltsInPlace

/-- Settles O43: no meaning that can halt the core writes PC before it does. -/
theorem fatalInstructionsLeaveThePostFetchPC : Obligations.FatalInstructionsLeaveThePostFetchPC :=
  fun i s t f h => exec_haltsInPlace i s t h f

/-! ### SYS, BNNN and FX1E -/

/-- Settles O19: SYS ends with outcome Ok in the state it executes in. -/
theorem sysHasNoEffect : Obligations.SysHasNoEffect := fun _ s => completes_endOk (.refl _ s) trivial

section Sums

variable {s : State}

theorem toNat_regExt (s : State) (x : RegName) : (s.regExt x).toNat = (s.reg x).toNat :=
  BitVec.toNat_setWidth_of_le (by decide)

/-- R112, the legacy dialect first. -/
theorem jumpOffset_eq (s : State) (nnn : Imm12) :
    s.jumpOffset nnn = s.regExt (if s.quirk = false then 0 else jumpReg nnn) := by
  cases h : s.quirk <;> simp [State.jumpOffset, h]

/-- D12: a byte and a 12-bit address add up within 16 bits. -/
theorem toNat_jumpTarget (s : State) (nnn : Imm12) :
    (s.jumpOffset nnn + zextAddr nnn).toNat = (s.jumpOffset nnn).toNat + nnn.toNat := by
  have hoffset := toNat_jumpOffset_lt s nnn
  have haddr := nnn.isLt
  rw [BitVec.toNat_add, toNat_zextAddr]
  exact Nat.mod_eq_of_lt (by omega)

theorem exec_addI_of_above {x : RegName} (h : 0x1000 < s.indexSum x) :
    exec (.addI x) s = endOk ((s.setIndex (BitVec.ofNat 16 (s.indexSum x))).setFlag 1) := by
  simp [exec, execAddI, indexOverflows, h]

theorem exec_addI_of_atMost {x : RegName} (h : s.indexSum x ≤ 0x1000) :
    exec (.addI x) s = endOk (s.setIndex (BitVec.ofNat 16 (s.indexSum x))) := by
  simp [exec, execAddI, indexOverflows, Nat.not_lt.mpr h]

end Sums

/-- Settles O25: PC takes the sum of NNN and the dialect's register, which fits in 16 bits. -/
theorem indexedJumpAddsExactly : Obligations.IndexedJumpAddsExactly := by
  intro nnn s
  refine completes_endOk (changes_setPC s _) ?_
  rw [State.setOutcome_pc, State.setPC_pc, toNat_jumpTarget, jumpOffset_eq, toNat_regExt, apply_ite s.reg, jumpReg_eq]

/-- Settles O45: `I` takes the sum in either case, and VF is written exactly when the sum is above 0x1000. -/
theorem indexAddFlagsOverflow : Obligations.IndexAddFlagsOverflow := by
  rintro x s _ rfl
  obtain h | h := Nat.lt_or_ge 0x1000 (s.indexSum x)
  · rw [exec_addI_of_above h]
    have hframe := ((changes_setIndex s (BitVec.ofNat 16 (s.indexSum x))).followedBy (changes_setFlag _ 1)).mono
      (g := Parts [.index, .reg vF]) (by simp)
    exact completes_endOk hframe ⟨BitVec.toNat_ofNat _ _, (reg_setFlag_vF _ 1).trans (if_pos h).symm⟩
  · rw [exec_addI_of_atMost h]
    exact completes_endOk ((changes_setIndex s _).mono (by simp))
      ⟨BitVec.toNat_ofNat _ _, (if_neg (Nat.not_lt.mpr h)).symm⟩

end Sys2Proof.Machine
end
